-- ==== Sys2Proof/Word.lean ====
section
/-! DEFINITION. The words of the block (spec/00_scope.md R7): 8-bit bytes, 7-bit DDRAM addresses, 10-bit wire words. -/

namespace Sys2Proof

/-- One byte on the data lines (R7: "All byte values are unsigned, 8 bits"). -/
abbrev Byte := BitVec 8

/-- A DDRAM address (R8: "7 bits for a DDRAM address"). -/
abbrev Addr := BitVec 7

/-- A wire word, R70: RS, RW, then the data byte. -/
abbrev WireWord := BitVec 10

end Sys2Proof
end

