-- ==== Sys2Proof/Syntax.lean ====
section
/-! DEFINITION. The instructions: one constructor for each row of spec/opcode_table.json. A constructor that begins with
`w` is a row of format W (a wire word, spec/30_encoding.md R70 to R80); the others are the rows of format H (an operation
HOST calls, R85). -/

namespace Sys2Proof

/-- The direction of the eight data lines together (R15), or of one control pin (R22). -/
inductive BusDir where
  | input
  | output
  deriving DecidableEq, Repr, Inhabited

/-- `line_count` of `initialize`: the two-valued type 1 or 2 (spec/42_driver_api.md R150, decision D15). -/
inductive LineCount where
  | one
  | two
  deriving DecidableEq, Repr, Inhabited

/-- The 32 rows of the opcode table. -/
inductive Instr where
  /-- `CLEAR_DISPLAY`, R72. -/
  | wClearDisplay
  /-- `RETURN_HOME`, R73. -/
  | wReturnHome
  /-- `ENTRY_MODE_SET`, R74: I at bit 1, S at bit 0. -/
  | wEntryModeSet (increment shiftDisplay : Bool)
  /-- `DISPLAY_CONTROL`, R75: D, C, B at bits 2, 1, 0. -/
  | wDisplayControl (displayOn cursorOn blinkOn : Bool)
  /-- `CURSOR_OR_DISPLAY_SHIFT`, R76: C at bit 3, R at bit 2. -/
  | wCursorOrDisplayShift (shiftDisplay shiftRight : Bool)
  /-- `FUNCTION_SET`, R77: L, N, F at bits 4, 3, 2. -/
  | wFunctionSet (eightBitBus twoLines tallFont : Bool)
  /-- `SET_DDRAM_ADDRESS`, R78: A at bits 6..0. -/
  | wSetDdramAddress (address : Addr)
  /-- `WRITE_CHARACTER`, R79: K at bits 7..0, with RS = 1. -/
  | wWriteCharacter (code : Byte)
  /-- `READ_STATUS`, R80: the byte is driven by the controller, so the operand is what the table's row has in those bits
  and the block never looks at it. -/
  | wReadStatus (driven : Byte)
  /-- `configure()`, R101. -/
  | configure
  /-- `set_bus_direction(direction)`, R102. -/
  | setBusDirection (direction : BusDir)
  /-- `write_byte(value)`, R103. -/
  | writeByte (value : Byte)
  /-- `read_byte()`, R104. -/
  | readByte
  /-- `set_register_select(bit)`, R106. -/
  | setRegisterSelect (bit : Bool)
  /-- `set_read_write(bit)`, R107. -/
  | setReadWrite (bit : Bool)
  /-- `set_enable(bit)`, R108. -/
  | setEnable (bit : Bool)
  /-- `poll_busy()`, R109. -/
  | pollBusy
  /-- `execute_instruction(rs, byte)`, R120. -/
  | executeInstruction (rs : Bool) (byte : Byte)
  /-- `wait_not_busy()`, R122. -/
  | waitNotBusy
  /-- `clear_display()`, R123. -/
  | clearDisplay
  /-- `return_home()`, R124. -/
  | returnHome
  /-- `entry_mode_set(increment, shift_display)`, R125. -/
  | entryModeSet (increment shiftDisplay : Bool)
  /-- `display_control(display_on, cursor_on, blink_on)`, R126. -/
  | displayControl (displayOn cursorOn blinkOn : Bool)
  /-- `cursor_or_display_shift(shift_display, shift_right)`, R127. -/
  | cursorOrDisplayShift (shiftDisplay shiftRight : Bool)
  /-- `function_set(eight_bit_bus, two_lines, tall_font)`, R128. -/
  | functionSet (eightBitBus twoLines tallFont : Bool)
  /-- `set_ddram_address(address)`, R129. -/
  | setDdramAddress (address : Byte)
  /-- `write_character(byte)`, R130. -/
  | writeCharacter (code : Byte)
  /-- `set_cgram_address(address)`, the stub of R131. -/
  | setCgramAddress (address : Byte)
  /-- `read_character()`, the stub of R132. -/
  | readCharacter
  /-- `initialize(line_count, cursor_on, cursor_blink)`, R150. -/
  | initialise (lineCount : LineCount) (cursorOn cursorBlink : Bool)
  /-- `print_string(text)`, R151. -/
  | printString (text : List Byte)
  /-- `set_cursor_location(row, column)`, R152: mathematical integers (decision D15). -/
  | setCursorLocation (row column : Int)
  deriving DecidableEq, Repr

end Sys2Proof
end

