-- ==== Sys2Proof/Decode.lean ====
section
/-! DEFINITION. The encodings of spec/30_encoding.md, the decoder and the encoder. A wire word (format W) is read by the masks of
the opcode table; a call of format H is its selector byte and the typed arguments in the model's own spelling (log 11). -/

namespace Sys2Proof

/-- R7: `b2i` maps true to 1 and false to 0. -/
def b2i (b : Bool) : Byte := if b then 1 else 0

/-! ### The instruction bytes, R72 to R79 -/

/-- R72: byte 0x01. -/
def clearDisplayByte : Byte := 0x01

/-- R73: byte 0x02. -/
def returnHomeByte : Byte := 0x02

/-- R74. -/
def entryModeByte (increment shiftDisplay : Bool) : Byte :=
  0x04 ||| (b2i increment <<< 1) ||| b2i shiftDisplay

/-- R75. -/
def displayControlByte (displayOn cursorOn blinkOn : Bool) : Byte :=
  0x08 ||| (b2i displayOn <<< 2) ||| (b2i cursorOn <<< 1) ||| b2i blinkOn

/-- R76. -/
def shiftByte (shiftDisplay shiftRight : Bool) : Byte :=
  0x10 ||| (b2i shiftDisplay <<< 3) ||| (b2i shiftRight <<< 2)

/-- R77. -/
def functionSetByte (eightBitBus twoLines tallFont : Bool) : Byte :=
  0x20 ||| (b2i eightBitBus <<< 4) ||| (b2i twoLines <<< 3) ||| (b2i tallFont <<< 2)

/-- R78: `0x80 | (address & 0x7F)`. -/
def ddramAddressByte (address : Byte) : Byte := 0x80 ||| (address &&& 0x7F)

/-- R70: `W[9] = RS`, `W[8] = RW`, `W[7:0] = DB[7:0]`. -/
def wireWord (rs rw : Bool) (db : Byte) : WireWord := (BitVec.ofBool rs ++ BitVec.ofBool rw) ++ db

/-! ### Reading a wire word -/

/-- One row of the opcode table's format W: a word matches if its bits under the mask are the pattern. -/
structure WireRow where
  mnemonic : String
  mask : WireWord
  pattern : WireWord
  deriving DecidableEq, Repr

/-- Format W of spec/opcode_table.json. -/
def wireTable : List WireRow :=
  [ { mnemonic := "CLEAR_DISPLAY", mask := 0x3FF, pattern := 0x001 }
  , { mnemonic := "RETURN_HOME", mask := 0x3FF, pattern := 0x002 }
  , { mnemonic := "ENTRY_MODE_SET", mask := 0x3FC, pattern := 0x004 }
  , { mnemonic := "DISPLAY_CONTROL", mask := 0x3F8, pattern := 0x008 }
  , { mnemonic := "CURSOR_OR_DISPLAY_SHIFT", mask := 0x3F3, pattern := 0x010 }
  , { mnemonic := "FUNCTION_SET", mask := 0x3E3, pattern := 0x020 }
  , { mnemonic := "SET_DDRAM_ADDRESS", mask := 0x380, pattern := 0x080 }
  , { mnemonic := "WRITE_CHARACTER", mask := 0x300, pattern := 0x200 }
  , { mnemonic := "READ_STATUS", mask := 0x300, pattern := 0x100 } ]

/-- R71: the word of the map that `w` is, or none for a word the block never emits (R83). -/
def decodeWire (w : WireWord) : Option Instr :=
  if w &&& 0x3FF = 0x001 then some .wClearDisplay
  else if w &&& 0x3FF = 0x002 then some .wReturnHome
  else if w &&& 0x3FC = 0x004 then some (.wEntryModeSet (w.getLsbD 1) (w.getLsbD 0))
  else if w &&& 0x3F8 = 0x008 then some (.wDisplayControl (w.getLsbD 2) (w.getLsbD 1) (w.getLsbD 0))
  else if w &&& 0x3F3 = 0x010 then some (.wCursorOrDisplayShift (w.getLsbD 3) (w.getLsbD 2))
  else if w &&& 0x3E3 = 0x020 then some (.wFunctionSet (w.getLsbD 4) (w.getLsbD 3) (w.getLsbD 2))
  else if w &&& 0x380 = 0x080 then some (.wSetDdramAddress (w.setWidth 7))
  else if w &&& 0x300 = 0x200 then some (.wWriteCharacter (w.setWidth 8))
  else if w &&& 0x300 = 0x100 then some (.wReadStatus (w.setWidth 8))
  else none

/-! ### Calls -/

/-- Format W (R70) or format H (R85). -/
inductive Format where
  | w
  | h
  deriving DecidableEq, Repr, Inhabited

/-- One call as HOST spells it. Format W: the word in two bytes, the low byte first, the six bits above the word zero. Format H:
the selector, then the operand bytes, and beside them the integer operands: R85's arguments are typed, and a row and a column
are mathematical integers (decision D15), which no number of bytes holds. -/
structure Call where
  format : Format
  bytes : List Byte
  ints : List Int
  deriving DecidableEq, Repr, Inhabited

/-- Why a call has no instruction. -/
inductive DecodeError where
  /-- No byte at all, or operands that are no argument list of the selector. -/
  | malformed
  /-- A selector 0x17 or above (R85). -/
  | unknownSelector
  /-- A wire word outside R71 (R83). -/
  | neverEmitted
  deriving DecidableEq, Repr

/-- A Boolean or one-bit operand: 0 or 1. -/
def readBool (b : Byte) : Option Bool :=
  if b = 0 then some false else if b = 1 then some true else none

/-- A direction operand: 0 INPUT, 1 OUTPUT. -/
def readDir (b : Byte) : Option BusDir := (readBool b).map fun x => if x then .output else .input

/-- A `line_count` operand: 0 for one line, 1 for two. -/
def readLines (b : Byte) : Option LineCount := (readBool b).map fun x => if x then .two else .one

/-- No operand byte. -/
def operands0 (i : Instr) : List Byte → Option Instr
  | [] => some i
  | _ :: _ => none

/-- One operand byte, read by `r`. -/
def operands1 {α : Type} (r : Byte → Option α) (f : α → Instr) : List Byte → Option Instr
  | [a] => (r a).map f
  | _ => none

/-- Two operand bytes. -/
def operands2 {α β : Type} (r : Byte → Option α) (q : Byte → Option β) (f : α → β → Instr) : List Byte → Option Instr
  | [a, b] => (r a).bind fun x => (q b).map fun y => f x y
  | _ => none

/-- Three operand bytes. -/
def operands3 {α : Type} (r : Byte → Option α) (f : α → Bool → Bool → Instr) : List Byte → Option Instr
  | [a, b, c] => (r a).bind fun x => (readBool b).bind fun y => (readBool c).map fun z => f x y z
  | _ => none

/-- The operation a selector and its operand bytes spell (R85); none where the operand bytes do not fit. The operand bytes of
`print_string` are the codes of the text, of whatever number. -/
def decodeBytes (op : Nat) (args : List Byte) : Option Instr :=
  match op with
  | 0x00 => operands0 .configure args
  | 0x01 => operands1 readDir .setBusDirection args
  | 0x02 => operands1 some .writeByte args
  | 0x03 => operands0 .readByte args
  | 0x04 => operands1 readBool .setRegisterSelect args
  | 0x05 => operands1 readBool .setReadWrite args
  | 0x06 => operands1 readBool .setEnable args
  | 0x07 => operands0 .pollBusy args
  | 0x08 => operands2 readBool some .executeInstruction args
  | 0x09 => operands0 .waitNotBusy args
  | 0x0A => operands0 .clearDisplay args
  | 0x0B => operands0 .returnHome args
  | 0x0C => operands2 readBool readBool .entryModeSet args
  | 0x0D => operands3 readBool .displayControl args
  | 0x0E => operands2 readBool readBool .cursorOrDisplayShift args
  | 0x0F => operands3 readBool .functionSet args
  | 0x10 => operands1 some .setDdramAddress args
  | 0x11 => operands1 some .writeCharacter args
  | 0x12 => operands1 some .setCgramAddress args
  | 0x13 => operands0 .readCharacter args
  | 0x14 => operands3 readLines .initialise args
  | 0x15 => some (.printString args)
  | _ => none

/-- The operation of a call (R85): `set_cursor_location` takes two integers and no byte, every other operation bytes alone. -/
def decodeOperation (op : Nat) (args : List Byte) : List Int → Option Instr
  | [] => decodeBytes op args
  | [row, column] => if op = 0x16 then operands0 (.setCursorLocation row column) args else none
  | _ => none

/-- The decoder, total on any call. -/
def decode (c : Call) : Except DecodeError Instr :=
  match c.format, c.bytes, c.ints with
  | .w, [lo, hi], [] =>
    if hi.toNat < 4 then
      match decodeWire (wireWord (hi.getLsbD 1) (hi.getLsbD 0) lo) with
      | some i => .ok i
      | none => .error .neverEmitted
    else .error .malformed
  | .w, _, _ => .error .malformed
  | .h, [], _ => .error .malformed
  | .h, op :: args, ints =>
    if op.toNat < 0x17 then
      match decodeOperation op.toNat args ints with
      | some i => .ok i
      | none => .error .malformed
    else .error .unknownSelector

/-! ### The encoder -/

/-- A wire word as a call: the data byte, then RS and RW in bits 1 and 0 of the second byte. -/
def wireCall (rs rw : Bool) (db : Byte) : Call :=
  { format := .w, bytes := [db, (b2i rs <<< 1) ||| b2i rw], ints := [] }

/-- A call of format H with operand bytes alone. -/
def hostCall (op : Byte) (args : List Byte) : Call := { format := .h, bytes := op :: args, ints := [] }

/-- The operand byte of a direction. -/
def dirByte : BusDir → Byte
  | .input => 0
  | .output => 1

/-- The operand byte of a line count. -/
def linesByte : LineCount → Byte
  | .one => 0
  | .two => 1

/-- The encoder. -/
def encode : Instr → Call
  | .wClearDisplay => wireCall false false clearDisplayByte
  | .wReturnHome => wireCall false false returnHomeByte
  | .wEntryModeSet i s => wireCall false false (entryModeByte i s)
  | .wDisplayControl d c b => wireCall false false (displayControlByte d c b)
  | .wCursorOrDisplayShift c r => wireCall false false (shiftByte c r)
  | .wFunctionSet l n f => wireCall false false (functionSetByte l n f)
  | .wSetDdramAddress a => wireCall false false (ddramAddressByte (a.setWidth 8))
  | .wWriteCharacter k => wireCall true false k
  | .wReadStatus v => wireCall false true v
  | .configure => hostCall 0x00 []
  | .setBusDirection d => hostCall 0x01 [dirByte d]
  | .writeByte v => hostCall 0x02 [v]
  | .readByte => hostCall 0x03 []
  | .setRegisterSelect b => hostCall 0x04 [b2i b]
  | .setReadWrite b => hostCall 0x05 [b2i b]
  | .setEnable b => hostCall 0x06 [b2i b]
  | .pollBusy => hostCall 0x07 []
  | .executeInstruction rs v => hostCall 0x08 [b2i rs, v]
  | .waitNotBusy => hostCall 0x09 []
  | .clearDisplay => hostCall 0x0A []
  | .returnHome => hostCall 0x0B []
  | .entryModeSet i s => hostCall 0x0C [b2i i, b2i s]
  | .displayControl d c b => hostCall 0x0D [b2i d, b2i c, b2i b]
  | .cursorOrDisplayShift c r => hostCall 0x0E [b2i c, b2i r]
  | .functionSet l n f => hostCall 0x0F [b2i l, b2i n, b2i f]
  | .setDdramAddress a => hostCall 0x10 [a]
  | .writeCharacter k => hostCall 0x11 [k]
  | .setCgramAddress a => hostCall 0x12 [a]
  | .readCharacter => hostCall 0x13 []
  | .initialise n c b => hostCall 0x14 [linesByte n, b2i c, b2i b]
  | .printString text => hostCall 0x15 text
  | .setCursorLocation row column => { format := .h, bytes := [0x16], ints := [row, column] }

/-! ### The host's questions about a row of the table -/

/-- How many operand bytes a selector takes when they are all zero (the text of `print_string` is then empty). -/
def zeroOperands : Nat → Nat
  | 0x01 | 0x02 | 0x04 | 0x05 | 0x06 | 0x10 | 0x11 | 0x12 => 1
  | 0x08 | 0x0C | 0x0E => 2
  | 0x0D | 0x0F | 0x14 => 3
  | _ => 0

/-- How many integer operands a selector takes. -/
def zeroInts : Nat → Nat
  | 0x16 => 2
  | _ => 0

/-- The call whose bits are `w`, numbered as the opcode table numbers them: a row of at most 8 bits is a selector of format H
with its operands zero, a longer one a wire word of format W. -/
def tableCall (nbits w : Nat) : Call :=
  if nbits ≤ 8 then
    { format := .h, bytes := BitVec.ofNat 8 w :: List.replicate (zeroOperands w) 0, ints := List.replicate (zeroInts w) 0 }
  else { format := .w, bytes := [BitVec.ofNat 8 w, BitVec.ofNat 8 (w / 256)], ints := [] }

/-- The instruction the decoder reads from a row's bits. -/
def decodeTableWord (nbits w : Nat) : Option Instr :=
  match decode (tableCall nbits w) with
  | .ok i => some i
  | .error _ => none

end Sys2Proof
end

