-- ==== Sys2Proof/Config.lean ====
section
/-! DEFINITION. What is fixed for one machine (spec/00_scope.md R5, spec/10_state.md R10, R11) and the free values: opaque
constants with no body, so that nothing can be proved of what they are (spec/93_implementation_defined.md). -/

namespace Sys2Proof

/-- `COLS`, R5: OPEN, one of 16 or 20. -/
inductive Cols where
  | c16
  | c20
  deriving DecidableEq, Repr, Inhabited

/-- The number of columns that the range check of `set_cursor_location` uses. -/
def Cols.width : Cols → Nat
  | .c16 => 16
  | .c20 => 20

/-- Pin Assignment, R11: data line `i` is pin `dBase + i`. -/
structure PinMap where
  rsPin : Nat
  rwPin : Nat
  enPin : Nat
  auxPin : Nat
  dBase : Nat
  deriving DecidableEq, Repr, Inhabited

/-- The parameters of the step relation. The last five are passages of the controller's rules that the spec marks as general
knowledge and asks a model to hold as configuration that a claim names as a premise (spec/20_memory.md section 4): log 9. -/
structure Config where
  /-- `COLS`, R5. -/
  cols : Cols
  /-- `LINE_CAP`, R5: 20 in the reference configuration. -/
  lineCap : Nat
  /-- `POLL_LIMIT`, R5, R173: `none` is the reference design. -/
  pollLimit : Option Nat
  /-- `T_SETTLE`, R5, R191: the least settle wait, in microseconds. No step reads it (R222, log 19). -/
  tSettle : Nat
  /-- `T_PULSE`: the least width of a write pulse. -/
  tPulse : Nat
  /-- `T_POLL`: the least sleep between two polls. -/
  tPoll : Nat
  /-- The pin assignment, R11. -/
  pins : PinMap
  /-- What `CLEAR_DISPLAY` writes to every cell: 0x20 in R55. -/
  clearFill : Byte
  /-- Whether `CLEAR_DISPLAY` undoes the window shift: it does in R55. -/
  clearUnshifts : Bool
  /-- What `CLEAR_DISPLAY` sets SH to; none where it leaves it, as in R55. -/
  clearShift : Option Bool
  /-- Whether a cursor move steps AC: it does in R59. -/
  cursorMovesAc : Bool
  /-- Whether a character write with SH = 1 moves the window against the direction of the address step: it does in R62. -/
  writeShiftsAgainst : Bool
  deriving DecidableEq, Repr, Inhabited

/-- The premise that the controller is the standard part, as R55, R59 and R62 have it. -/
def Config.standardPart (c : Config) : Bool :=
  c.clearFill == 0x20 && c.clearUnshifts && c.clearShift.isNone && c.cursorMovesAc && c.writeShiftsAgainst

/-- The reference configuration (R5 for `lineCap` and `pollLimit`, R220's
figures for the waits, R55, R59, R62 for the controller). DESIGN CHOICE, unsafe
(log 8): COLS and the pin assignment are OPEN and these are one choice of them; D_BASE = 4 is that of
spec/95_test_vectors.md 2.2. -/
def Config.reference : Config :=
  { cols := .c16, lineCap := 20, pollLimit := none, tSettle := 1, tPulse := 1, tPoll := 5
    pins := { rsPin := 0, rwPin := 1, enPin := 2, auxPin := 3, dBase := 4 }
    clearFill := 0x20, clearUnshifts := true, clearShift := none, cursorMovesAc := true, writeShiftsAgainst := true }

/-! ### Free values (log 1): each is applied to the counter `State.draws` -/

/-- A bit under no law; the second argument tells several bits of one draw apart. -/
opaque Config.freeBit : Nat → Nat → Bool

/-- A byte under no law: DOUT (R16), a floating read (R44). -/
opaque Config.freeByte : Nat → Byte

/-- Bits 6..0 of a status read, R44: "draw(7 bits)". -/
opaque Config.freeStatus : Nat → BitVec 7

/-- An address counter under no law (R65, R83). -/
opaque Config.freeAddr : Nat → Addr

/-- A window shift under no law (R65, R83). -/
opaque Config.freeOfs : Nat → Int

/-! ### Configuration functions of the controller that the model assumes nothing of -/

/-- `ac_step` off the end of a line (R63, U7); the Boolean is true for +1. -/
opaque Config.acStepOff : Addr → Bool → Addr

/-- AC after `SET_DDRAM_ADDRESS` with an address outside both lines (R61, U6). -/
opaque Config.acOutside : Addr → Addr

/-- The cell a character write reaches, if any, when AC is outside both lines (U6). -/
opaque Config.writeTarget : Addr → Option Addr

end Sys2Proof
end

