-- ==== Sys2Proof/WellFormed.lean ====
section
/-! DEFINITION. Well-formedness. Every instruction is well formed: the operand types of Syntax.lean are the spec's own, on which every
operation is total (spec/30_encoding.md R81, decision D15). What can be ill formed is the pin assignment (spec/10_state.md R11). -/

namespace Sys2Proof

/-- The twelve physical pins: the four control pins, then the data lines in ascending order. -/
def PinMap.all (p : PinMap) : List Nat :=
  [p.rsPin, p.rwPin, p.enPin, p.auxPin] ++ (List.range 8).map (p.dBase + ·)

/-- R11: "all twelve identifiers are pairwise distinct". -/
def PinMap.wf (p : PinMap) : Bool := decide p.all.Nodup

end Sys2Proof
end

