-- ==== Sys2Proof/Machine/State.lean ====
section
/-! DEFINITION. The state of the machine as plain data (spec/10_state.md R10 to R29 for the block, spec/20_memory.md R50 for the
controller), the reasons a step can stop (spec/60_exceptions.md R184, R185), and the state at power-on (R29, R65, R200). -/

namespace Sys2Proof.Machine

/-- R184: what the source calls undefined or says must never occur. All are safe: the model stops where the hardware goes on. -/
inductive Fault where
  /-- Raised by `set_bus_direction` with E = 1 (R102). Safe. -/
  | dirSwitchWhileEnableHigh
  /-- Raised by `poll_busy` with DIR not INPUT or with E = 1 (R109). Safe. -/
  | pollDuringWrite
  /-- Raised by `write_byte`, `set_register_select` and `set_read_write` with E = 1 (R103, R106, R107). Safe. -/
  | changeWhileEnableHigh
  /-- Raised by `set_enable(1)` and by a sample with RW = 1, DIR = OUTPUT and E = 1 together (R108, R44). Safe. -/
  | busContention
  /-- Raised by `set_enable(0)` at a falling edge with RW = 0 and DIR = INPUT (R108). Safe. -/
  | writeWithBusInput
  /-- Raised by CTL's latch with BF = 1 (R52). Safe. -/
  | writeWhileBusy
  /-- Raised by CTL's completion of the command byte 0x00 (R54, R83). Safe. -/
  | unknownCommand
  /-- Raised by CTL's completion of FUNCTION_SET with the bus-width bit 0 (R60). Safe. -/
  | fourBitModeSelected
  deriving DecidableEq, Repr

/-- R185: a call whose precondition the caller broke. All are safe: the model gives the call no meaning. -/
inductive Refusal where
  /-- Raised by an arm of `exec` whose instruction has no meaning yet; no arm is one. Safe. -/
  | notModelled (mnemonic : String)
  /-- Raised by every operation but `configure` and `initialize` with LIFE not READY (R100, R185). Safe. -/
  | notConfigured
  /-- Raised by `configure` and `initialize` with LIFE not UNCONFIGURED (R101, R185). Safe. -/
  | configureTwice
  /-- Raised by `write_byte` with DIR not OUTPUT and `read_byte` with DIR not INPUT (R103, R104). Safe. -/
  | wrongDirection
  /-- Raised by every call while SEQ is not IDLE (R185, R216). Safe. -/
  | reentered
  /-- Raised by the step at a call with a selector 0x17 or above (R85, R185). Safe. -/
  | unknownSelector
  /-- Raised by the step at a call of format W whose word is outside R71 (R83). Safe. -/
  | neverEmitted
  /-- Raised by the step at a call whose operands are no arguments of its selector (log 11). Safe. -/
  | malformedCall
  deriving DecidableEq, Repr

/-- `LIFE`, R19. -/
inductive Life where
  | unconfigured
  | ready
  | failed
  deriving DecidableEq, Repr, Inhabited

/-- The three fixed waits, R191. -/
inductive Wait where
  | settle
  | pulse
  | poll
  deriving DecidableEq, Repr, Inhabited

/-- The events of `TRACE`, R25. -/
inductive Event where
  | claim (ok : Bool)
  | ctlOut
  | dir (d : BusDir)
  | data (v : Byte)
  | rs (b : Bool)
  | rw (b : Bool)
  | e (b : Bool)
  | sample (v : Byte)
  | delay (k : Wait)
  deriving DecidableEq, Repr

/-- The directions of the four control pins, R22. -/
structure CtrlDirs where
  rs : BusDir
  rw : BusDir
  e : BusDir
  aux : BusDir
  deriving DecidableEq, Repr, Inhabited

/-- The pin latches and directions, R13 to R16 and R22. -/
structure Pins where
  /-- `RS`, R13: false is 0, command or status. -/
  rs : Bool
  /-- `RW`, R13: false is 0, WRITE; true is 1, READ. -/
  rw : Bool
  /-- `E`, R13. -/
  e : Bool
  /-- `AUX`, R14: a level under no law. -/
  aux : Bool
  /-- The control pin directions, R22. -/
  ctrlDir : CtrlDirs
  /-- `DIR`, R15. -/
  dir : BusDir
  /-- `DOUT`, R16. -/
  dout : Byte
  deriving DecidableEq, Repr, Inhabited

/-- The eight operations of the instruction layer (R123 to R130), as frames of `SEQ` name them. -/
inductive InstrOp where
  | clearDisplay
  | returnHome
  | entryModeSet
  | displayControl
  | cursorOrDisplayShift
  | functionSet
  | setDdramAddress
  | writeCharacter
  deriving DecidableEq, Repr

/-- The labels of `initialize` (R23, R150) at which a busy-wait can stand. -/
inductive InitLabel where
  | i2
  | i3
  | i4
  | i5
  | i6
  deriving DecidableEq, Repr

/-- The frames under a busy-wait, R23 and R133, each with its locals and at the label where it calls the next. -/
inductive Frame where
  /-- `execute_instruction` at X6. -/
  | executeInstruction (rs : Bool) (byte : Byte)
  /-- An instruction-layer operation calling `execute_instruction`. -/
  | operation (op : InstrOp)
  /-- `initialize` at the label. -/
  | initialise (label : InitLabel) (lineCount : LineCount) (cursorOn cursorBlink : Bool)
  /-- `print_string` at S1(i). -/
  | printString (i : Nat) (text : List Byte)
  /-- `set_cursor_location` at L1. -/
  | setCursorLocation (row column : Int)
  deriving DecidableEq, Repr

/-- `SEQ`, R23. One model step runs an operation to its return (R24: "one big step from call to return"), or, where the
controller has not completed, to the next W1 of the busy-wait: so at a step's end SEQ is IDLE or at W1 of `wait_not_busy`, with
the polls made so far and the frames that wait for it (log 12). -/
inductive Seq where
  | idle
  | waiting (polls : Nat) (stack : List Frame)
  deriving DecidableEq, Repr

/-- `PEND`, R50 and R65. -/
inductive Pending where
  | none
  | powerOn
  | word (rs : Bool) (v : Byte)
  deriving DecidableEq, Repr, Inhabited

/-- The controller's registers, R50. -/
structure CtlRegs where
  /-- `AC`, the address counter. -/
  ac : Addr
  /-- `ID`: true increments. -/
  id : Bool
  /-- `SH`: true shifts the window with every write. -/
  sh : Bool
  /-- `D`, display on. -/
  d : Bool
  /-- `C`, cursor on. -/
  c : Bool
  /-- `B`, blink on. -/
  b : Bool
  /-- `DL`, 8-bit bus. -/
  dl : Bool
  /-- `N`, two lines. -/
  n : Bool
  /-- `F`, tall font. -/
  f : Bool
  /-- `OFS`, how far the window is shifted. -/
  ofs : Int
  deriving DecidableEq, Repr, Inhabited

/-- The controller, R50. -/
structure Ctl where
  /-- `BF`, the busy flag. -/
  bf : Bool
  /-- `PEND`. -/
  pend : Pending
  /-- The registers. -/
  regs : CtlRegs
  /-- `DDRAM`: the cells with a known value, at strictly rising valid addresses; a cell not listed has no value (log 7). -/
  ddram : List Host.Cell
  deriving DecidableEq, Repr, Inhabited

/-- The moves of the other agents, as plain data (log 2, log 10): the model's own fields. -/
structure Env where
  /-- PLATFORM's answer to the pin claim, R101. -/
  claimOk : Bool
  /-- How many more gaps between DRV events pass before CTL completes the pending word; none: it never does (R53, R174). -/
  due : Option Nat
  /-- What `due` becomes at the next latches, in order. -/
  latencies : List (Option Nat)
  /-- What `due` becomes at a latch after those. -/
  latencyAfter : Option Nat
  deriving DecidableEq, Repr, Inhabited

/-- What `due` becomes at the next latch. -/
def Env.next (v : Env) : Option Nat :=
  match v.latencies with
  | [] => v.latencyAfter
  | d :: _ => d

/-- The conditions the block returns, R170. -/
inductive Condition where
  | pinClaimFailure
  | invalidInput
  | controllerUnresponsive
  deriving DecidableEq, Repr

/-- What an operation gives back to HOST (R85's result column, R153). -/
inductive Ret where
  /-- It returns and has no result. -/
  | nothing
  /-- The Boolean of `poll_busy`. -/
  | bool (b : Bool)
  /-- The byte of `read_byte` or `read_character`. -/
  | byte (v : Byte)
  /-- `Ok`, or the success of the stub `set_cgram_address`. -/
  | ok
  /-- A condition (R176). -/
  | raised (c : Condition)
  deriving DecidableEq, Repr

/-- The machine. -/
structure State where
  /-- The parameters, R5, R10, R11: no step changes them. -/
  cfg : Config
  /-- `LIFE`, R19. -/
  life : Life
  /-- The pin latches and directions, R13 to R16. -/
  pins : Pins
  /-- `SAMPLE`, R17: none when no operation that took it is running. -/
  sample : Option Byte
  /-- `IBYTE`, R18: none when no instruction is being executed. -/
  ibyte : Option Byte
  /-- `SEQ`, R23. -/
  seq : Seq
  /-- `TRACE`, R25, oldest event first. -/
  trace : List Event
  /-- The controller, R50. -/
  ctl : Ctl
  /-- The other agents' moves. -/
  env : Env
  /-- How many free values have been drawn (log 1). -/
  draws : Nat
  /-- HOST's calls still to be made, R86. -/
  calls : List Call
  /-- What the last operation returned; none before the first return and while an operation is in progress. -/
  ret : Option Ret
  deriving DecidableEq, Repr

/-- Power-on: LIFE, SEQ, TRACE as R29 and R200 say, BF and PEND as R65 says; every other value is a DESIGN CHOICE, unsafe
(logs 2, 3, 4, 8, 10, 11). -/
def State.reset : State :=
  { cfg := Config.reference
    life := .unconfigured
    pins :=
      { rs := false, rw := false, e := false, aux := false
        ctrlDir := { rs := .input, rw := .input, e := .input, aux := .input }
        dir := .input, dout := 0 }
    sample := none
    ibyte := none
    seq := .idle
    trace := []
    ctl :=
      { bf := true, pend := .powerOn
        regs := { ac := 0, id := false, sh := false, d := false, c := false, b := false, dl := true, n := false, f := false
                  ofs := 0 }
        ddram := [] }
    env := { claimOk := true, due := some 0, latencies := [], latencyAfter := some 0 }
    draws := 0
    calls := []
    ret := none }

end Sys2Proof.Machine
end

