-- ==== Sys2Proof/Machine/Ctl.lean ====
section
/-! DEFINITION. The controller behind the pins (spec/20_memory.md R42, R50 to R65): its display RAM, the decoding of a latched
word, the effect of each command, the latch step and the completion step. -/

namespace Sys2Proof.Machine

/-- The steps' answers. -/
abbrev Result := Host.Outcome State Fault Refusal

/-- Run `k` where `r` is a next state; a fault or a refusal ends the run. -/
def andThen (r : Result) (k : State → Result) : Result :=
  match r with
  | .next s => k s
  | .fault f => .fault f
  | .refused q => .refused q

/-! ### Display RAM, R42 -/

/-- R42: the two lines, 0x00..0x27 and 0x40..0x67. -/
def validCell (a : Nat) : Bool := decide (a < 0x28) || (decide (0x40 ≤ a) && decide (a < 0x68))

/-- The 80 cells in rising order. -/
def validCells : List Nat := List.range 0x28 ++ (List.range 0x28).map (0x40 + ·)

/-- What a cell holds; none where nothing known has been written (log 7). -/
def Memory.read : List Host.Cell → Nat → Option Byte
  | [], _ => none
  | (k, v) :: m, a => if k = a then some v else Memory.read m a

/-- `MemWrite(a, 1, v)`, R8, in the canonical form. -/
def Memory.write : List Host.Cell → Nat → Byte → List Host.Cell
  | [], a, v => [(a, v)]
  | (k, w) :: m, a, v =>
    if a < k then (a, v) :: (k, w) :: m
    else if a = k then (a, v) :: m
    else (k, w) :: Memory.write m a v

/-- Every address of the list is above `lo`, valid and below the next: the canonical form. -/
def Memory.rising : Option Nat → List Host.Cell → Bool
  | _, [] => true
  | lo, (k, _) :: m =>
    (match lo with
     | none => true
     | some l => decide (l < k)) && validCell k && Memory.rising (some k) m

/-- The canonical form: addresses strictly rising, and each a valid cell. No entry can equal what an unlisted address reads as,
since an unlisted address has no value. -/
def Memory.wf (m : List Host.Cell) : Bool := Memory.rising none m

/-- `for every valid a: MemWrite(a, 1, v)`, R55. -/
def Memory.fill (v : Byte) : List Host.Cell := validCells.map fun a => (a, v)

/-! ### Address counter -/

/-- R63: `a + d` where that is a valid address, else a configuration function; `up` is d = +1. -/
def acStep (a : Addr) (up : Bool) : Addr :=
  if up then
    if validCell (a.toNat + 1) then a + 1 else Config.acStepOff a true
  else
    if decide (0 < a.toNat) && validCell (a.toNat - 1) then a - 1 else Config.acStepOff a false

/-- R61: AC after `SET_DDRAM_ADDRESS`. -/
def acSet (a : Addr) : Addr := if validCell a.toNat then a else Config.acOutside a

/-- The cell a character write at `a` reaches: `a` itself where it is valid (R62), else what the configuration says (U6). -/
def writeCell (a : Addr) : Option Addr :=
  if validCell a.toNat then some a
  else
    match Config.writeTarget a with
    | some t => if validCell t.toNat then some t else none
    | none => none

/-! ### Decoding a latched word, R54 -/

/-- What a latched word asks for. -/
inductive Command where
  | clearDisplay
  | returnHome
  | entryModeSet (i s : Bool)
  | displayControl (d c b : Bool)
  | shift (sc rl : Bool)
  | functionSet (dl n f : Bool)
  | setDdramAddress (a : Addr)
  | character (v : Byte)
  /-- The byte 0x00, with no prefix bit. -/
  | noCommand
  /-- A byte the block cannot emit, other than 0x00 (R83). -/
  | unspecified
  deriving DecidableEq, Repr

/-- R54: with RS = 1 a character; with RS = 0 the highest set bit names the command. -/
def latchedCommand (rs : Bool) (v : Byte) : Command :=
  if rs then .character v
  else if v.getLsbD 7 then .setDdramAddress (v.setWidth 7)
  else if v.getLsbD 6 then .unspecified
  else if v.getLsbD 5 then
    if v.getLsbD 1 || v.getLsbD 0 then .unspecified
    else .functionSet (v.getLsbD 4) (v.getLsbD 3) (v.getLsbD 2)
  else if v.getLsbD 4 then
    if v.getLsbD 1 || v.getLsbD 0 then .unspecified
    else .shift (v.getLsbD 3) (v.getLsbD 2)
  else if v.getLsbD 3 then .displayControl (v.getLsbD 2) (v.getLsbD 1) (v.getLsbD 0)
  else if v.getLsbD 2 then .entryModeSet (v.getLsbD 1) (v.getLsbD 0)
  else if v.getLsbD 1 then
    if v.getLsbD 0 then .unspecified else .returnHome
  else if v.getLsbD 0 then .clearDisplay
  else .noCommand

/-! ### Effects, R55 to R62 -/

/-- R55: `AC <- 0; ID <- 1`, every cell filled, the window shift undone, SH left as it was; the last three as the configuration
has them (log 9). -/
def ctlClearDisplay (cfg : Config) (c : Ctl) : Ctl :=
  { c with
    regs := { c.regs with
      ac := 0, id := true, sh := cfg.clearShift.getD c.regs.sh, ofs := if cfg.clearUnshifts then 0 else c.regs.ofs }
    ddram := Memory.fill cfg.clearFill }

/-- R56: `AC <- 0; OFS <- 0`. -/
def ctlReturnHome (c : Ctl) : Ctl := { c with regs := { c.regs with ac := 0, ofs := 0 } }

/-- R57: `ID <- I; SH <- S`. -/
def ctlEntryModeSet (i s : Bool) (c : Ctl) : Ctl := { c with regs := { c.regs with id := i, sh := s } }

/-- R58: `D, C, B`. -/
def ctlDisplayControl (d cur b : Bool) (c : Ctl) : Ctl := { c with regs := { c.regs with d := d, c := cur, b := b } }

/-- R59: with SC = 1 the window moves one place, with SC = 0 the cursor does. -/
def ctlShift (cfg : Config) (sc rl : Bool) (c : Ctl) : Ctl :=
  if sc then { c with regs := { c.regs with ofs := if rl then c.regs.ofs + 1 else c.regs.ofs - 1 } }
  else { c with regs := { c.regs with ac := if cfg.cursorMovesAc then acStep c.regs.ac rl else c.regs.ac } }

/-- R60: `DL, N, F`. -/
def ctlFunctionSet (dl n f : Bool) (c : Ctl) : Ctl := { c with regs := { c.regs with dl := dl, n := n, f := f } }

/-- R61: `AC <- A`. -/
def ctlSetDdramAddress (a : Addr) (c : Ctl) : Ctl := { c with regs := { c.regs with ac := acSet a } }

/-- R62: the window's move with a character write: none with SH = 0; with SH = 1 one place, -1 for ID = 1 and +1 for ID = 0. -/
def writeShift (cfg : Config) (r : CtlRegs) : Int :=
  if r.sh then (if r.id = cfg.writeShiftsAgainst then r.ofs - 1 else r.ofs + 1) else r.ofs

/-- R62: `MemWrite(AC, 1, v)`, then AC steps per the entry mode, and the window with SH. -/
def ctlCharacter (cfg : Config) (v : Byte) (c : Ctl) : Ctl :=
  { c with
    regs := { c.regs with ac := acStep c.regs.ac c.regs.id, ofs := writeShift cfg c.regs }
    ddram :=
      match writeCell c.regs.ac with
      | some a => Memory.write c.ddram a.toNat v
      | none => c.ddram }

/-- Registers under no law. -/
def freeRegs (n : Nat) : CtlRegs :=
  { ac := Config.freeAddr n
    id := Config.freeBit n 0, sh := Config.freeBit n 1, d := Config.freeBit n 2, c := Config.freeBit n 3
    b := Config.freeBit n 4, dl := Config.freeBit n 5, n := Config.freeBit n 6, f := Config.freeBit n 7
    ofs := Config.freeOfs n }

/-- An effect the spec does not fix at all (power-on completion R65; a never-emitted byte R83, U9): every register is a free
value and no cell has a known value. -/
def ctlAnyEffect (n : Nat) (c : Ctl) : Ctl := { c with regs := freeRegs n, ddram := [] }

/-- How many free values the effect of a latched word draws. -/
def effectDraws (rs : Bool) (v : Byte) : Nat :=
  match latchedCommand rs v with
  | .unspecified => 1
  | .clearDisplay | .returnHome | .entryModeSet _ _ | .displayControl _ _ _ | .shift _ _ | .functionSet _ _ _
  | .setDdramAddress _ | .character _ | .noCommand => 0

/-- The effect of a latched word on the controller, R54 to R62; `n` numbers the free values. -/
def ctlEffect (cfg : Config) (n : Nat) (rs : Bool) (v : Byte) (c : Ctl) : Except Fault Ctl :=
  match latchedCommand rs v with
  | .clearDisplay => .ok (ctlClearDisplay cfg c)
  | .returnHome => .ok (ctlReturnHome c)
  | .entryModeSet i s => .ok (ctlEntryModeSet i s c)
  | .displayControl d cur b => .ok (ctlDisplayControl d cur b c)
  | .shift sc rl => .ok (ctlShift cfg sc rl c)
  | .functionSet dl n f => if dl then .ok (ctlFunctionSet dl n f c) else .error .fourBitModeSelected
  | .setDdramAddress a => .ok (ctlSetDdramAddress a c)
  | .character k => .ok (ctlCharacter cfg k c)
  | .noCommand => .error .unknownCommand
  | .unspecified => .ok (ctlAnyEffect n c)

/-! ### Latch and completion -/

/-- R52: the latch step at a write transaction `Wr(rs, v)`. -/
def ctlLatch (rs : Bool) (v : Byte) (s : State) : Result :=
  if s.ctl.bf then .fault .writeWhileBusy
  else
    .next { s with
      ctl := { s.ctl with bf := true, pend := .word rs v }
      env := { s.env with due := s.env.next, latencies := s.env.latencies.tail } }

/-- The pending word is finished: `CTL.PEND <- none; CTL.BF <- 0`, R53. -/
def ctlDone (c : Ctl) : Ctl := { c with bf := false, pend := .none }

/-- R53: the completion step. -/
def ctlComplete (s : State) : Result :=
  match s.ctl.pend with
  | .none => .next s
  | .powerOn =>
    .next { s with ctl := ctlDone (ctlAnyEffect s.draws s.ctl), env := { s.env with due := none }, draws := s.draws + 1 }
  | .word rs v =>
    match ctlEffect s.cfg s.draws rs v s.ctl with
    | .ok c =>
      .next { s with ctl := ctlDone c, env := { s.env with due := none }, draws := s.draws + effectDraws rs v }
    | .error f => .fault f

/-- The gap between two DRV steps, in which CTL may complete (R24, R53): it does so when its count has run down. -/
def ctlGap (s : State) : Result :=
  match s.ctl.pend, s.env.due with
  | .none, _ => .next s
  | _, none => .next s
  | _, some 0 => ctlComplete s
  | _, some (n + 1) => .next { s with env := { s.env with due := some n } }

end Sys2Proof.Machine
end

