-- ==== Sys2Proof/Machine/Flags.lean ====
section
/-! DEFINITION. The one condition the block tests, the busy result (spec/10_state.md R21). There are no other flags. -/

namespace Sys2Proof.Machine

/-- R21, R109: busy iff bit 7 of the sampled byte is set. -/
def busy (v : Byte) : Bool := v.getLsbD 7

/-- The busy result of the byte in `SAMPLE` (R21: computed by `poll_busy`, read only by the busy-wait). -/
def State.busyResult (s : State) : Bool :=
  match s.sample with
  | some v => busy v
  | none => false

end Sys2Proof.Machine
end

