-- ==== Sys2Proof/Machine/Operands.lean ====
section
/-! DEFINITION. The operand checks and the assembly of operands into instruction bytes (spec/30_encoding.md R81, R82;
spec/42_driver_api.md R150 to R152), and the wire words each operation expands into (R87). -/

namespace Sys2Proof.Machine

/-- One run of `execute_instruction`: the frames above it, RS and the byte. -/
structure Job where
  parents : List Frame
  rs : Bool
  byte : Byte
  deriving DecidableEq, Repr

/-- R151: a text is accepted unless it is empty or longer than LINE_CAP. -/
def textAccepted (cfg : Config) (text : List Byte) : Bool :=
  decide (text.length ≠ 0) && decide (text.length ≤ cfg.lineCap)

/-- R152: row 0 or 1, column in 0 .. COLS - 1. -/
def cursorAccepted (cfg : Config) (row column : Int) : Bool :=
  (decide (row = 0) || decide (row = 1)) && decide (0 ≤ column) && decide (column ≤ (cfg.cols.width : Int) - 1)

/-- R152: the DDRAM address of an accepted position, `column` for row 0 and `0x40 + column` for row 1. -/
def cursorAddress (row column : Int) : Byte :=
  BitVec.ofInt 8 (if row = 0 then column else 0x40 + column)

/-- R150: `two_lines = (line_count = 2)`. -/
def twoLines : LineCount → Bool
  | .one => false
  | .two => true

/-- R151: one `WRITE_CHARACTER` per code, in index order. -/
def printJobs (text : List Byte) : List Job :=
  text.zipIdx.map fun p => { parents := [.operation .writeCharacter, .printString p.2 text], rs := true, byte := p.1 }

/-- R150: the four commands of I3 to I6. -/
def initJobs (n : LineCount) (cursorOn cursorBlink : Bool) : List Job :=
  [ { parents := [.operation .clearDisplay, .initialise .i3 n cursorOn cursorBlink], rs := false, byte := clearDisplayByte }
  , { parents := [.operation .functionSet, .initialise .i4 n cursorOn cursorBlink], rs := false
      byte := functionSetByte true (twoLines n) false }
  , { parents := [.operation .displayControl, .initialise .i5 n cursorOn cursorBlink], rs := false
      byte := displayControlByte true cursorOn cursorBlink }
  , { parents := [.operation .entryModeSet, .initialise .i6 n cursorOn cursorBlink], rs := false
      byte := entryModeByte true false } ]

/-- How many of `initJobs` have been sent when the busy-wait of a label stands. -/
def InitLabel.sent : InitLabel → Nat
  | .i2 => 0
  | .i3 => 1
  | .i4 => 2
  | .i5 => 3
  | .i6 => 4

/-- R152: the one command of L1. -/
def cursorJob (row column : Int) : Job :=
  { parents := [.operation .setDdramAddress, .setCursorLocation row column], rs := false
    byte := ddramAddressByte (cursorAddress row column) }

/-- What is left to do, and the result to return, when the busy-wait above these frames ends (R23). -/
def remaining : List Frame → List Job × Ret
  | [] => ([], .nothing)
  | .executeInstruction _ _ :: fs => remaining fs
  | .operation _ :: fs => remaining fs
  | .printString i text :: _ => ((printJobs text).drop (i + 1), .ok)
  | .initialise l n c b :: _ => ((initJobs n c b).drop l.sent, .ok)
  | .setCursorLocation _ _ :: _ => ([], .ok)

end Sys2Proof.Machine
end

