-- ==== Sys2Proof/Machine/Ops.lean ====
section
/-! DEFINITION. The shared operations: the primitives of spec/00_scope.md R8, the bus-layer steps of spec/40_bus_layer.md, the core
algorithm and the busy-wait of spec/41_instruction_layer.md R120 and R122, raising a condition and returning
(spec/60_exceptions.md R176), `configure` (R101), and reading HOST's next call. -/

namespace Sys2Proof.Machine

/-- Append one event to `TRACE`, R25. -/
def State.log (s : State) (e : Event) : State := { s with trace := s.trace ++ [e] }

/-- Run the steps in order. -/
def runAll : List (State → Result) → State → Result
  | [], s => .next s
  | f :: fs, s => andThen (f s) (runAll fs)

/-! ### What the pins carry -/

/-- R16, R40, R45: the level the block drives on a physical pin; none where it drives nothing. -/
def State.pinLevel (s : State) (p : Nat) : Option Bool :=
  let m := s.cfg.pins
  if p = m.rsPin then (if s.pins.ctrlDir.rs = .output then some s.pins.rs else none)
  else if p = m.rwPin then (if s.pins.ctrlDir.rw = .output then some s.pins.rw else none)
  else if p = m.enPin then (if s.pins.ctrlDir.e = .output then some s.pins.e else none)
  else if p = m.auxPin then (if s.pins.ctrlDir.aux = .output then some s.pins.aux else none)
  else if m.dBase ≤ p ∧ p < m.dBase + 8 then
    (if s.pins.dir = .output then some (s.pins.dout.getLsbD (p - m.dBase)) else none)
  else none

/-- R44: the controller drives the data lines only while enable is high on a read. -/
def Pins.ctlDrives (p : Pins) : Bool := p.e && p.rw

/-- R44: the byte of a status read, the busy flag above seven drawn bits. -/
def statusByte (bf : Bool) (draw : Nat) : Byte := BitVec.ofBool bf ++ Config.freeStatus draw

/-- R44: the level of the eight data lines with the lines as inputs. -/
def lineLevel (s : State) : Byte :=
  if s.pins.ctlDrives && !s.pins.rs then statusByte s.ctl.bf s.draws else Config.freeByte s.draws

/-! ### Primitives, R8. Before each the controller may take its completion step (R24, R53). -/

/-- `pin[RS] <- b`. -/
def putRs (b : Bool) (s : State) : Result :=
  andThen (ctlGap s) fun s => .next ({ s with pins := { s.pins with rs := b } }.log (.rs b))

/-- `pin[RW] <- b`. -/
def putRw (b : Bool) (s : State) : Result :=
  andThen (ctlGap s) fun s => .next ({ s with pins := { s.pins with rw := b } }.log (.rw b))

/-- The latch and the lines after a direction switch: when DIR becomes OUTPUT the byte on the lines is unspecified until the next
`write_byte` (R16, log 6); otherwise DOUT is not touched (R102). -/
def switched (d : BusDir) (s : State) : State :=
  if s.pins.dir = .input ∧ d = .output then
    { s with pins := { s.pins with dir := d, dout := Config.freeByte s.draws }, draws := s.draws + 1 }
  else { s with pins := { s.pins with dir := d } }

/-- `DIR <- d`. -/
def putDir (d : BusDir) (s : State) : Result :=
  andThen (ctlGap s) fun s => .next ((switched d s).log (.dir d))

/-- `DOUT <- v`. -/
def putData (v : Byte) (s : State) : Result :=
  andThen (ctlGap s) fun s => .next ({ s with pins := { s.pins with dout := v } }.log (.data v))

/-- `delay(K)`: a marker and nothing else (R222). -/
def delay (k : Wait) (s : State) : Result :=
  andThen (ctlGap s) fun s => .next (s.log (.delay k))

/-- `v <- sample() ; SAMPLE <- v`, R44. -/
def takeSample (s : State) : Result :=
  andThen (ctlGap s) fun s =>
    match s.pins.dir with
    | .input => .next ({ s with sample := some (lineLevel s), draws := s.draws + 1 }.log (.sample (lineLevel s)))
    | .output => if s.pins.ctlDrives then .fault .busContention else .refused .wrongDirection

/-! ### Bus-layer steps -/

/-- `set_bus_direction(d)`, R102. -/
def setBusDirection (d : BusDir) (s : State) : Result :=
  if s.pins.e then .fault .dirSwitchWhileEnableHigh else putDir d s

/-- `write_byte(v)`, R103. -/
def writeByte (v : Byte) (s : State) : Result :=
  if s.pins.dir ≠ .output then .refused .wrongDirection
  else if s.pins.e then .fault .changeWhileEnableHigh
  else putData v s

/-- `read_byte()`, R104. -/
def readByte (s : State) : Result :=
  if s.pins.dir ≠ .input then .refused .wrongDirection else takeSample s

/-- `set_register_select(b)`, R106. -/
def setRegisterSelect (b : Bool) (s : State) : Result :=
  if s.pins.e then .fault .changeWhileEnableHigh else putRs b s

/-- `set_read_write(b)`, R107. -/
def setReadWrite (b : Bool) (s : State) : Result :=
  if s.pins.e then .fault .changeWhileEnableHigh else putRw b s

/-- R108: what the edge from the old level to `b` amounts to, in the state with the new level: a write transaction, which
the controller latches in the same step (R46, R52), a bus contention, or nothing. An edge with RW = 1 leaves the controller as it was
also where RS = 1, which ends a character read: R61 quotes "character writes/reads" that "auto-advance", R41 and U18 say that the
block never makes one, and R44 fixes only its sample, so that AC stays is the model's choice (DESIGN CHOICE, unsafe: log 26). -/
def enableEdge (old b : Bool) (s : State) : Result :=
  if old && !b && !s.pins.rw then
    (if s.pins.dir ≠ .output then .fault .writeWithBusInput else ctlLatch s.pins.rs s.pins.dout s)
  else if !old && b && s.pins.rw && (s.pins.dir == .output) then .fault .busContention
  else .next s

/-- `set_enable(b)`, R108. -/
def setEnable (b : Bool) (s : State) : Result :=
  andThen (ctlGap s) fun s => enableEdge s.pins.e b ({ s with pins := { s.pins with e := b } }.log (.e b))

/-- `poll_busy()`, R109: P1 to P6. The busy result is `State.busyResult` of the state it leaves. -/
def pollBusy (s : State) : Result :=
  if s.pins.dir ≠ .input ∨ s.pins.e = true then .fault .pollDuringWrite
  else
    runAll [setRegisterSelect false, setReadWrite true, setEnable true, delay .settle, takeSample, setEnable false] s

/-! ### Return and raise, R176 -/

/-- The operation in progress ends: SEQ is IDLE, the transient registers are gone (R17, R18) and HOST has `r`. -/
def finish (r : Ret) (s : State) : State := { s with seq := .idle, sample := none, ibyte := none, ret := some r }

/-- `raise c`, R176: every enclosing operation stops and HOST has the condition; what has been done stays done. -/
def raise (c : Condition) (s : State) : State := finish (.raised c) s

/-! ### The busy-wait, R122 -/

/-- W2's second test: POLL_LIMIT is `some m` and `n >= m`. -/
def limitReached (cfg : Config) (n : Nat) : Bool :=
  match cfg.pollLimit with
  | none => false
  | some m => decide (m ≤ n)

/-- How many rounds one model step may run: enough for the wait to end if the controller completes or the limit is reached, and
one round if it never ends (log 12). -/
def pollFuel (s : State) : Nat := s.env.due.getD 0 + s.cfg.pollLimit.getD 0 + 1

/-- `wait_not_busy()` from W1 with `n` polls made, under the frames `stack`; `k` is what follows its return. When the rounds of
this step are used up the block rests at W1 and the next step goes on. After a raise of ControllerUnresponsive the block accepts the
next call with the word still pending: R170 calls whether the condition is recoverable the "model's choice", and this is it
(DESIGN CHOICE, safe: log 24). -/
def busyWait (stack : List Frame) (k : State → Result) : Nat → Nat → State → Result
  | 0, n, s => .next { s with seq := .waiting n stack }
  | fuel + 1, n, s =>
    andThen (pollBusy s) fun s =>
      if s.busyResult then
        if limitReached s.cfg (n + 1) then .next (raise .controllerUnresponsive s)
        else andThen (delay .poll { s with sample := none }) (busyWait stack k fuel (n + 1))
      else k { s with sample := none }

/-! ### The core algorithm, R120 -/

/-- Steps 1 to 5, X1a to X5c. -/
def writeSequence (rs : Bool) (byte : Byte) : List (State → Result) :=
  [ setRegisterSelect rs, setReadWrite false, setBusDirection .output, writeByte byte
  , setEnable true, delay .pulse, setEnable false
  , setRegisterSelect false, setReadWrite true, setBusDirection .input ]

/-- "execute one instruction", then `k`. -/
def executeJob (j : Job) (k : State → Result) (s : State) : Result :=
  andThen (runAll (writeSequence j.rs j.byte) { s with ibyte := some j.byte }) fun s =>
    busyWait (.executeInstruction j.rs j.byte :: j.parents) (fun s => k { s with ibyte := none }) (pollFuel s) 0 s

/-- A sequence of instructions, then the return of `r`. -/
def sendJobs : List Job → Ret → State → Result
  | [], r, s => .next (finish r s)
  | j :: js, r, s => executeJob j (fun s => sendJobs js r s) s

/-- What follows the end of the busy-wait under these frames. -/
def afterWait (stack : List Frame) (s : State) : Result :=
  sendJobs (remaining stack).1 (remaining stack).2 { s with ibyte := none }

/-- DRV's turn while SEQ is not IDLE: the busy-wait goes on. -/
def resume (n : Nat) (stack : List Frame) (s : State) : Result :=
  busyWait stack (afterWait stack) (pollFuel s) n s

/-! ### Calls -/

/-- A call of an operation other than `configure` and `initialize`: refused while another is in progress (R185 Reentered) and
unless LIFE is READY (R100), before any check of its own (R178). -/
def call (k : State → Result) (s : State) : Result :=
  if s.seq ≠ .idle then .refused .reentered
  else if s.life ≠ .ready then .refused .notConfigured
  else k { s with ret := none }

/-- A call of `configure` or `initialize` (R101, R150). Called while an operation is in progress it meets both Reentered and
ConfigureTwice of R185, and R178, R216 and D32 do not rank the two: that Reentered is given is the model's choice (DESIGN CHOICE,
safe: log 23). -/
def callFirst (k : State → Result) (s : State) : Result :=
  if s.seq ≠ .idle then .refused .reentered
  else if s.life ≠ .unconfigured then .refused .configureTwice
  else k { s with ret := none }

/-- Return `r f` where `f` has left a next state. -/
def returning (r : State → Ret) (x : Result) : Result := andThen x fun s => .next (finish (r s) s)

/-- R101, R201: the state after a successful claim; DOUT and AUX are unspecified (logs 5, 6). -/
def configured (s : State) : State :=
  { s with
    life := .ready
    pins :=
      { rs := false, rw := true, e := false, aux := Config.freeBit s.draws 0
        ctrlDir := { rs := .output, rw := .output, e := .output, aux := .output }
        dir := .input, dout := Config.freeByte s.draws }
    draws := s.draws + 1
    trace := s.trace ++ [.claim true, .ctlOut, .dir .input, .rs false, .rw true, .e false] }

/-- A direction under no law. -/
def freeDir (n k : Nat) : BusDir := if Config.freeBit n k then .output else .input

/-- R29, R171: the state after a failed claim: every pin is unspecified. -/
def claimFailed (s : State) : State :=
  { s with
    life := .failed
    pins :=
      { rs := Config.freeBit s.draws 1, rw := Config.freeBit s.draws 2, e := Config.freeBit s.draws 3
        aux := Config.freeBit s.draws 0
        ctrlDir :=
          { rs := freeDir s.draws 4, rw := freeDir s.draws 5, e := freeDir s.draws 6, aux := freeDir s.draws 7 }
        dir := freeDir s.draws 8, dout := Config.freeByte s.draws }
    draws := s.draws + 1
    trace := s.trace ++ [.claim false] }

/-- `configure()`, R101, one atomic step, then `k`; a failed claim raises PinClaimFailure. -/
def configureThen (k : State → Result) (s : State) : Result :=
  andThen (ctlGap s) fun s =>
    if s.env.claimOk then k (configured s) else .next (raise .pinClaimFailure (claimFailed s))

/-! ### HOST's next call -/

/-- The refusal of a call that has no instruction. -/
def refusalOf : DecodeError → Refusal
  | .malformed => .malformedCall
  | .unknownSelector => .unknownSelector
  | .neverEmitted => .neverEmitted

/-- Take HOST's next call off the list and decode it. -/
def fetchCall (c : Call) (rest : List Call) (s : State) : Except Refusal (Instr × State) :=
  match decode c with
  | .ok i => .ok (i, { s with calls := rest })
  | .error e => .error (refusalOf e)

end Sys2Proof.Machine
end

