-- ==== Sys2Proof/Machine/Api.lean ====
section
/-! DEFINITION. The meanings of the public driver API (spec/42_driver_api.md R150 to R153). -/

namespace Sys2Proof.Machine

/-- `initialize(line_count, cursor_on, cursor_blink)`, R150: I1 configure, I2 the busy-wait for the power-on flag, I3 to I6 the
four commands. -/
def execInitialise (n : LineCount) (c b : Bool) (s : State) : Result :=
  callFirst
    (configureThen fun s =>
      busyWait [.initialise .i2 n c b] (fun s => sendJobs (initJobs n c b) .ok s) (pollFuel s) 0 s) s

/-- `print_string(text)`, R151: rejected before any pin event, else one character write for each code in order. -/
def execPrintString (text : List Byte) (s : State) : Result :=
  call
    (fun s =>
      if textAccepted s.cfg text then sendJobs (printJobs text) .ok s else .next (raise .invalidInput s)) s

/-- `set_cursor_location(row, column)`, R152: rejected before any pin event, else one address-set. -/
def execSetCursorLocation (row column : Int) (s : State) : Result :=
  call
    (fun s =>
      if cursorAccepted s.cfg row column then sendJobs [cursorJob row column] .ok s
      else .next (raise .invalidInput s)) s

end Sys2Proof.Machine
end

