-- ==== Sys2Proof/Machine/BusLayer.lean ====
section
/-! DEFINITION. The meanings of the eight bus-layer operations (spec/40_bus_layer.md R101 to R109), exposed to HOST as R190 allows. -/

namespace Sys2Proof.Machine

/-- `configure()`, R101. -/
def execConfigure (s : State) : Result := callFirst (configureThen fun s => .next (finish .nothing s)) s

/-- `set_bus_direction(direction)`, R102. -/
def execSetBusDirection (d : BusDir) (s : State) : Result :=
  call (fun s => returning (fun _ => .nothing) (setBusDirection d s)) s

/-- `write_byte(value)`, R103. -/
def execWriteByte (v : Byte) (s : State) : Result := call (fun s => returning (fun _ => .nothing) (writeByte v s)) s

/-- `read_byte()`, R104: it returns SAMPLE. -/
def execReadByte (s : State) : Result := call (fun s => returning (fun t => .byte (t.sample.getD 0)) (readByte s)) s

/-- `set_register_select(bit)`, R106. -/
def execSetRegisterSelect (b : Bool) (s : State) : Result :=
  call (fun s => returning (fun _ => .nothing) (setRegisterSelect b s)) s

/-- `set_read_write(bit)`, R107. -/
def execSetReadWrite (b : Bool) (s : State) : Result := call (fun s => returning (fun _ => .nothing) (setReadWrite b s)) s

/-- `set_enable(bit)`, R108. -/
def execSetEnable (b : Bool) (s : State) : Result := call (fun s => returning (fun _ => .nothing) (setEnable b s)) s

/-- `poll_busy()`, R109: it returns bit 7 of the sample. -/
def execPollBusy (s : State) : Result :=
  call (fun s => returning (fun t => .bool t.busyResult) (pollBusy s)) s

end Sys2Proof.Machine
end

