-- ==== Sys2Proof/Machine/InstructionLayer.lean ====
section
/-! DEFINITION. The meanings of the instruction layer (spec/41_instruction_layer.md R120 to R132). -/

namespace Sys2Proof.Machine

/-- `execute_instruction(rs, byte)`, R120. -/
def execExecuteInstruction (rs : Bool) (v : Byte) (s : State) : Result := call (sendJobs [⟨[], rs, v⟩] .nothing) s

/-- `wait_not_busy()`, R122. -/
def execWaitNotBusy (s : State) : Result :=
  call (fun s => busyWait [] (fun s => .next (finish .nothing s)) (pollFuel s) 0 s) s

/-- `clear_display()`, R123. -/
def execClearDisplay (s : State) : Result :=
  call (sendJobs [⟨[.operation .clearDisplay], false, clearDisplayByte⟩] .nothing) s

/-- `return_home()`, R124. -/
def execReturnHome (s : State) : Result := call (sendJobs [⟨[.operation .returnHome], false, returnHomeByte⟩] .nothing) s

/-- `entry_mode_set(increment, shift_display)`, R125. -/
def execEntryModeSet (i sh : Bool) (s : State) : Result :=
  call (sendJobs [⟨[.operation .entryModeSet], false, entryModeByte i sh⟩] .nothing) s

/-- `display_control(display_on, cursor_on, blink_on)`, R126. -/
def execDisplayControl (d c b : Bool) (s : State) : Result :=
  call (sendJobs [⟨[.operation .displayControl], false, displayControlByte d c b⟩] .nothing) s

/-- `cursor_or_display_shift(shift_display, shift_right)`, R127. -/
def execCursorOrDisplayShift (c r : Bool) (s : State) : Result :=
  call (sendJobs [⟨[.operation .cursorOrDisplayShift], false, shiftByte c r⟩] .nothing) s

/-- `function_set(eight_bit_bus, two_lines, tall_font)`, R128. -/
def execFunctionSet (l n f : Bool) (s : State) : Result :=
  call (sendJobs [⟨[.operation .functionSet], false, functionSetByte l n f⟩] .nothing) s

/-- `set_ddram_address(address)`, R129. -/
def execSetDdramAddress (a : Byte) (s : State) : Result :=
  call (sendJobs [⟨[.operation .setDdramAddress], false, ddramAddressByte a⟩] .nothing) s

/-- `write_character(byte)`, R130. -/
def execWriteCharacter (k : Byte) (s : State) : Result :=
  call (sendJobs [⟨[.operation .writeCharacter], true, k⟩] .nothing) s

/-- `set_cgram_address(address)`, R131: it succeeds and does nothing. -/
def execSetCgramAddress (_a : Byte) (s : State) : Result := call (fun s => .next (finish .ok s)) s

/-- `read_character()`, R132: it returns 0 and does nothing. -/
def execReadCharacter (s : State) : Result := call (fun s => .next (finish (.byte 0) s)) s

end Sys2Proof.Machine
end

