-- ==== Sys2Proof/Machine/Wire.lean ====
section
/-! DEFINITION. The meanings of format W: a write word is run through "execute one instruction" (spec/30_encoding.md R72 to R79, each
of which names its rule of spec/41_instruction_layer.md as the word's semantics), and a status read is one poll (R80). -/

namespace Sys2Proof.Machine

/-- `CLEAR_DISPLAY`: R72, semantics R123. -/
def execWClearDisplay (s : State) : Result := call (sendJobs [⟨[], false, clearDisplayByte⟩] .nothing) s

/-- `RETURN_HOME`: R73, semantics R124. -/
def execWReturnHome (s : State) : Result := call (sendJobs [⟨[], false, returnHomeByte⟩] .nothing) s

/-- `ENTRY_MODE_SET`: R74, semantics R125. -/
def execWEntryModeSet (i sh : Bool) (s : State) : Result := call (sendJobs [⟨[], false, entryModeByte i sh⟩] .nothing) s

/-- `DISPLAY_CONTROL`: R75, semantics R126. -/
def execWDisplayControl (d c b : Bool) (s : State) : Result :=
  call (sendJobs [⟨[], false, displayControlByte d c b⟩] .nothing) s

/-- `CURSOR_OR_DISPLAY_SHIFT`: R76, semantics R127. -/
def execWCursorOrDisplayShift (c r : Bool) (s : State) : Result := call (sendJobs [⟨[], false, shiftByte c r⟩] .nothing) s

/-- `FUNCTION_SET`: R77, semantics R128. -/
def execWFunctionSet (l n f : Bool) (s : State) : Result :=
  call (sendJobs [⟨[], false, functionSetByte l n f⟩] .nothing) s

/-- `SET_DDRAM_ADDRESS`: R78, semantics R129. -/
def execWSetDdramAddress (a : Addr) (s : State) : Result :=
  call (sendJobs [⟨[], false, ddramAddressByte (a.setWidth 8)⟩] .nothing) s

/-- `WRITE_CHARACTER`: R79, semantics R130. -/
def execWWriteCharacter (k : Byte) (s : State) : Result := call (sendJobs [⟨[], true, k⟩] .nothing) s

/-- `READ_STATUS`: R80, semantics R109. The word's data byte is driven by the controller, so it is not looked at. -/
def execWReadStatus (_driven : Byte) (s : State) : Result :=
  call (fun s => returning (fun t => .bool t.busyResult) (pollBusy s)) s

end Sys2Proof.Machine
end

