-- ==== Sys2Proof/Machine/Dispatch.lean ====
section
/-! DEFINITION. One arm for each constructor of `Instr`: a call of its meaning. -/

namespace Sys2Proof.Machine

def exec (i : Instr) (s : State) : Host.Outcome State Fault Refusal :=
  match i with
  | .wClearDisplay => Sys2Proof.Machine.execWClearDisplay s
  | .wReturnHome => Sys2Proof.Machine.execWReturnHome s
  | .wEntryModeSet a b => Sys2Proof.Machine.execWEntryModeSet a b s
  | .wDisplayControl a b c => Sys2Proof.Machine.execWDisplayControl a b c s
  | .wCursorOrDisplayShift a b => Sys2Proof.Machine.execWCursorOrDisplayShift a b s
  | .wFunctionSet a b c => Sys2Proof.Machine.execWFunctionSet a b c s
  | .wSetDdramAddress a => Sys2Proof.Machine.execWSetDdramAddress a s
  | .wWriteCharacter k => Sys2Proof.Machine.execWWriteCharacter k s
  | .wReadStatus v => Sys2Proof.Machine.execWReadStatus v s
  | .configure => Sys2Proof.Machine.execConfigure s
  | .setBusDirection d => Sys2Proof.Machine.execSetBusDirection d s
  | .writeByte v => Sys2Proof.Machine.execWriteByte v s
  | .readByte => Sys2Proof.Machine.execReadByte s
  | .setRegisterSelect b => Sys2Proof.Machine.execSetRegisterSelect b s
  | .setReadWrite b => Sys2Proof.Machine.execSetReadWrite b s
  | .setEnable b => Sys2Proof.Machine.execSetEnable b s
  | .pollBusy => Sys2Proof.Machine.execPollBusy s
  | .executeInstruction rs v => Sys2Proof.Machine.execExecuteInstruction rs v s
  | .waitNotBusy => Sys2Proof.Machine.execWaitNotBusy s
  | .clearDisplay => Sys2Proof.Machine.execClearDisplay s
  | .returnHome => Sys2Proof.Machine.execReturnHome s
  | .entryModeSet a b => Sys2Proof.Machine.execEntryModeSet a b s
  | .displayControl a b c => Sys2Proof.Machine.execDisplayControl a b c s
  | .cursorOrDisplayShift a b => Sys2Proof.Machine.execCursorOrDisplayShift a b s
  | .functionSet a b c => Sys2Proof.Machine.execFunctionSet a b c s
  | .setDdramAddress a => Sys2Proof.Machine.execSetDdramAddress a s
  | .writeCharacter k => Sys2Proof.Machine.execWriteCharacter k s
  | .setCgramAddress a => Sys2Proof.Machine.execSetCgramAddress a s
  | .readCharacter => Sys2Proof.Machine.execReadCharacter s
  | .initialise n c b => Sys2Proof.Machine.execInitialise n c b s
  | .printString text => Sys2Proof.Machine.execPrintString text s
  | .setCursorLocation row column => Sys2Proof.Machine.execSetCursorLocation row column s

end Sys2Proof.Machine
end

