-- ==== Sys2Proof/Machine/Step.lean ====
section
/-! DEFINITION. One step of the machine. While an operation is in progress the block goes on with it; else it takes HOST's next call
(spec/10_state.md R23, R24; spec/30_encoding.md R86); with no call to take only the controller can move (R53, R200). -/

namespace Sys2Proof.Machine

/-- The step. -/
def step (s : State) : Host.Outcome State Fault Refusal :=
  match s.seq, s.calls with
  | .waiting n stack, _ => resume n stack s
  | .idle, [] => ctlGap s
  | .idle, c :: rest =>
    match fetchCall c rest s with
    | .ok (i, t) => exec i t
    | .error r => .refused r

/-- `s` with the instruction whose bits are `w` (numbered as spec/opcode_table.json numbers them) as HOST's next call, and no
operation in progress, so that the next step runs it (log 11). -/
def State.withFetchWord (s : State) (nbits w : Nat) : State :=
  { s with seq := .idle, calls := tableCall nbits w :: s.calls }

end Sys2Proof.Machine
end

