-- ==== Sys2Proof/Safety.lean ====
section
/-! DEFINITION. What claims are stated in: the quiescent bus (spec/10_state.md R26), a responsive controller (spec/20_memory.md R53),
the generated event sequences (spec/41_instruction_layer.md R120, R122; spec/95_test_vectors.md 2.13), the transaction trace
(R48), the hazard predicates on TRACE (spec/70_reset_and_hazards.md R210 to R218), and the invariant of the machine. -/

namespace Sys2Proof.Machine

/-! ### States -/

/-- R26: `RS = 0, RW = 1, E = 0, DIR = INPUT`. -/
def Pins.quiescent (p : Pins) : Prop := p.rs = false ∧ p.rw = true ∧ p.e = false ∧ p.dir = .input

/-- The block accepts a call of any operation but `configure` and `initialize`: LIFE is READY and SEQ is IDLE (R185). -/
def State.accepts (s : State) : Prop := s.life = .ready ∧ s.seq = .idle

/-- Between two instructions (R120's precondition, R66): the block accepts a call, the bus is quiescent, and the controller is
not busy and has nothing pending. -/
def State.settled (s : State) : Prop :=
  s.accepts ∧ s.pins.quiescent ∧ s.ctl.bf = false ∧ s.ctl.pend = .none

/-- `CtlResponsive`, R53: the controller completes the pending word and every word it will latch. -/
def State.responsive (s : State) : Prop :=
  (s.ctl.pend ≠ .none → s.env.due ≠ none) ∧ (∀ d ∈ s.env.latencies, d ≠ none) ∧ s.env.latencyAfter ≠ none

/-- The premises under which one instruction of the reference design completes: the state is settled, POLL_LIMIT is none
(R173: "A claim about the reference hardware is made at `POLL_LIMIT = none`"), and the controller will complete the next
word (`CtlResponsive`, R53). -/
def State.runnable (s : State) : Prop := s.settled ∧ s.cfg.pollLimit = none ∧ s.env.next ≠ none

/-- The wire word (RS and byte) of the operations that send exactly one: R120, R123 to R130, and the write words R72 to R79. -/
def wordOf : Instr → Option (Bool × Byte)
  | .executeInstruction rs v => some (rs, v)
  | .clearDisplay | .wClearDisplay => some (false, 0x01)
  | .returnHome | .wReturnHome => some (false, 0x02)
  | .entryModeSet i s | .wEntryModeSet i s => some (false, entryModeByte i s)
  | .displayControl d c b | .wDisplayControl d c b => some (false, displayControlByte d c b)
  | .cursorOrDisplayShift c r | .wCursorOrDisplayShift c r => some (false, shiftByte c r)
  | .functionSet l n f | .wFunctionSet l n f => some (false, functionSetByte l n f)
  | .setDdramAddress a => some (false, ddramAddressByte a)
  | .wSetDdramAddress a => some (false, ddramAddressByte (a.setWidth 8))
  | .writeCharacter k | .wWriteCharacter k => some (true, k)
  | .wReadStatus _ | .configure | .setBusDirection _ | .writeByte _ | .readByte | .setRegisterSelect _ | .setReadWrite _
  | .setEnable _ | .pollBusy | .waitNotBusy | .setCgramAddress _ | .readCharacter | .initialise _ _ _ | .printString _
  | .setCursorLocation _ _ => none

/-- The first wire word of the API operations of R151 and R152, where their operands are accepted. -/
def apiWord (cfg : Config) : Instr → Option (Bool × Byte)
  | .printString text => if textAccepted cfg text then text.head?.map fun k => (true, k) else none
  | .setCursorLocation row column =>
    if cursorAccepted cfg row column then some (false, ddramAddressByte (cursorAddress row column)) else none
  | .wClearDisplay | .wReturnHome | .wEntryModeSet _ _ | .wDisplayControl _ _ _ | .wCursorOrDisplayShift _ _
  | .wFunctionSet _ _ _ | .wSetDdramAddress _ | .wWriteCharacter _ | .wReadStatus _ | .configure | .setBusDirection _
  | .writeByte _ | .readByte | .setRegisterSelect _ | .setReadWrite _ | .setEnable _ | .pollBusy
  | .executeInstruction _ _ | .waitNotBusy | .clearDisplay | .returnHome | .entryModeSet _ _ | .displayControl _ _ _
  | .cursorOrDisplayShift _ _ | .functionSet _ _ _ | .setDdramAddress _ | .writeCharacter _ | .setCgramAddress _
  | .readCharacter | .initialise _ _ _ => none

/-- The first wire word of every operation that sends one from a configured block: the one-word operations, an accepted
`print_string` (its first code) and an accepted `set_cursor_location`. -/
def firstWord (cfg : Config) (i : Instr) : Option (Bool × Byte) := (wordOf i).or (apiWord cfg i)

/-- The pending word is completed, if ever, only after `n` further gaps (R53; the count of gaps is log 2). -/
def lateFor (n : Nat) (due : Option Nat) : Prop := ∀ d, due = some d → n ≤ d

/-- The tier of an operation, R190: true for the api and instr tiers, which HOST may call. -/
def upperTier : Instr → Bool
  | .clearDisplay | .returnHome | .entryModeSet _ _ | .displayControl _ _ _ | .cursorOrDisplayShift _ _ | .functionSet _ _ _
  | .setDdramAddress _ | .writeCharacter _ | .setCgramAddress _ | .readCharacter | .initialise _ _ _ | .printString _
  | .setCursorLocation _ _ => true
  | .wClearDisplay | .wReturnHome | .wEntryModeSet _ _ | .wDisplayControl _ _ _ | .wCursorOrDisplayShift _ _
  | .wFunctionSet _ _ _ | .wSetDdramAddress _ | .wWriteCharacter _ | .wReadStatus _ | .configure | .setBusDirection _
  | .writeByte _ | .readByte | .setRegisterSelect _ | .setReadWrite _ | .setEnable _ | .pollBusy | .executeInstruction _ _
  | .waitNotBusy => false

/-- What a bus-layer operation leaves alone, and what the gap before its event (from `s` to `u`) has done: the parameters, LIFE
and the calls are those of `s`, the controller is where the gap left it, and the operation has returned `r`. -/
def busReturn (s u t : State) (r : Ret) : Prop :=
  t.cfg = s.cfg ∧ t.life = s.life ∧ t.calls = s.calls ∧ t.ctl = u.ctl ∧ t.env = u.env ∧ t.seq = .idle ∧ t.sample = none ∧
    t.ibyte = none ∧ t.ret = some r

/-- The state just after the lifecycle checks of a call: HOST's result is not there yet. -/
def State.entered (s : State) : State := { s with ret := none }

/-! ### The generated event sequences -/

/-- Steps 1 to 5 of R120. -/
def writeEvents (rs : Bool) (v : Byte) : List Event :=
  [.rs rs, .rw false, .dir .output, .data v, .e true, .delay .pulse, .e false, .rs false, .rw true, .dir .input]

/-- One `poll_busy`, R109. -/
def pollEvents (v : Byte) : List Event :=
  [.rs false, .rw true, .e true, .delay .settle, .sample v, .e false]

/-- `k` rounds of a busy-wait that see busy, each with the sleep after it; the low status bits are the draws from number
`n` on. -/
def busyRounds : Nat → Nat → List Event
  | 0, _ => []
  | k + 1, n => pollEvents (statusByte true n) ++ [.delay .poll] ++ busyRounds k (n + 1)

/-- A busy-wait that sees busy `k` times and then not busy, R122; the low status bits are the draws from number `n` on. -/
def waitEvents (k n : Nat) : List Event := busyRounds k n ++ pollEvents (statusByte false (n + k))

/-! ### Time, R191, R220 to R222 -/

/-- The least time a wait takes. -/
def waitTime (c : Config) : Wait → Nat
  | .settle => c.tSettle
  | .pulse => c.tPulse
  | .poll => c.tPoll

/-- A lower bound on the time the events of a trace take: the sum of its waits. -/
def leastElapsed (c : Config) : List Event → Nat
  | [] => 0
  | .delay k :: evs => waitTime c k + leastElapsed c evs
  | .claim _ :: evs | .ctlOut :: evs | .dir _ :: evs | .data _ :: evs | .rs _ :: evs | .rw _ :: evs | .e _ :: evs
  | .sample _ :: evs => leastElapsed c evs

/-! ### The states an operation leaves -/

/-- The state a busy-wait leaves for what follows it: it saw busy `j` times, and the completion drew `inc` free values. -/
def State.waited (s : State) (j inc : Nat) (c : Ctl) : State :=
  { s with
    sample := none, ctl := c, env := { s.env with due := none }, draws := s.draws + j + inc + 1
    trace := s.trace ++ busyRounds j s.draws ++ pollEvents (statusByte false (s.draws + j + inc)) }

/-- The state at the return of one instruction: the bus is quiescent with the byte in DOUT, TRACE has the write sequence and a
busy-wait that saw busy `j` times, and the controller is `c`. -/
def State.executed (s : State) (rs : Bool) (v : Byte) (j inc : Nat) (c : Ctl) : State :=
  { s with
    pins := { s.pins with rs := false, rw := true, e := false, dir := .input, dout := v }
    sample := none, ibyte := none, ctl := c
    env := { s.env with due := none, latencies := s.env.latencies.tail }
    draws := s.draws + 1 + j + inc + 1
    trace := s.trace ++ writeEvents rs v ++ busyRounds j (s.draws + 1) ++
      pollEvents (statusByte false (s.draws + 1 + j + inc)) }

/-! ### Transactions, R48 -/

/-- A bus transaction, as it can be read off TRACE. -/
inductive Txn where
  /-- A write, R46: v is DOUT; none where the lines became outputs and no `write_byte` followed, so that the byte the controller
  latches is a value under no law which no event shows (R16, D24). -/
  | wr (rs : Bool) (v : Option Byte)
  /-- A status read, R47. -/
  | rd (v : Byte)
  deriving DecidableEq, Repr

/-- What a watcher of the pins knows after some events. -/
structure Watch where
  rs : Bool
  rw : Bool
  e : Bool
  dir : BusDir
  /-- DOUT; none where it is unspecified: after a claim and after DIR has become OUTPUT, until the next `Data(v)` (R16). -/
  data : Option Byte
  /-- `Delay(SETTLE)` has passed since E rose. -/
  settled : Bool
  /-- `Delay(PULSE)` has passed since E rose. -/
  pulsed : Bool
  /-- The last status read since the last write saw not busy. -/
  seenIdle : Bool
  deriving DecidableEq, Repr

/-- The watcher of a quiescent bus that knows nothing of DOUT; `idle` says whether the last busy-wait has been seen to end. -/
def Watch.quiescent (idle : Bool) : Watch :=
  { rs := false, rw := true, e := false, dir := .input, data := none, settled := false, pulsed := false, seenIdle := idle }

/-- The watcher at power-on: nothing has happened. -/
def Watch.powerOn : Watch := Watch.quiescent false

/-- The event ends a write pulse (R46). -/
def Watch.isWrite (w : Watch) : Event → Bool
  | .e b => w.e && !b && !w.rw
  | _ => false

/-- The event is the sample of a status read (R47): RS = 0, RW = 1, DIR = INPUT, enable high, and the settle wait has passed. -/
def Watch.isStatusRead (w : Watch) : Event → Bool
  | .sample _ => w.e && w.rw && !w.rs && (w.dir == .input) && w.settled
  | _ => false

/-- The watcher after one event. -/
def Watch.after (w : Watch) (ev : Event) : Watch :=
  match ev with
  | .claim _ => { w with data := none }
  | .ctlOut => w
  | .dir d => { w with dir := d, data := if w.dir = .input ∧ d = .output then none else w.data }
  | .data v => { w with data := some v }
  | .rs b => { w with rs := b }
  | .rw b => { w with rw := b }
  | .e b =>
    { w with
      e := b
      settled := if b && !w.e then false else w.settled
      pulsed := if b && !w.e then false else w.pulsed
      seenIdle := if w.isWrite (.e b) then false else w.seenIdle }
  | .sample v => { w with seenIdle := if w.isStatusRead (.sample v) then !busy v else w.seenIdle }
  | .delay .settle => { w with settled := true }
  | .delay .pulse => { w with pulsed := true }
  | .delay .poll => w

/-- The watcher after a list of events. -/
def Watch.afterAll (w : Watch) : List Event → Watch
  | [] => w
  | ev :: evs => (w.after ev).afterAll evs

/-- The transaction an event completes, if any. -/
def Watch.txn (w : Watch) (ev : Event) : List Txn :=
  if w.isWrite ev then [.wr w.rs w.data]
  else
    match ev with
    | .sample v => if w.isStatusRead (.sample v) then [.rd v] else []
    | _ => []

/-- The transaction trace of a list of events. -/
def Watch.txns (w : Watch) : List Event → List Txn
  | [] => []
  | ev :: evs => w.txn ev ++ (w.after ev).txns evs

/-! ### Hazards, R210 to R218 -/

/-- Every event of the list meets `p` where it stands. -/
def Watch.all (p : Watch → Event → Bool) (w : Watch) : List Event → Bool
  | [] => true
  | ev :: evs => p w ev && (w.after ev).all p evs

/-- R210: direction switches only with enable low. -/
def dirSwitchSafe (w : Watch) : Event → Bool
  | .dir _ => !w.e
  | _ => true

/-- R211: "between an `E(1)` and the next `E(0)` the only events are `Delay(K)` and `Sample(v)`". -/
def setupStable (w : Watch) : Event → Bool
  | .delay _ | .sample _ | .e false => true
  | .claim _ | .ctlOut | .dir _ | .data _ | .rs _ | .rw _ | .e true => !w.e

/-- The part of R211 that its fault ChangeWhileEnableHigh guards in R103, R106, R107 and, as DirSwitchWhileEnableHigh, in R102: RS, RW,
DIR and DOUT are not written while enable is high. A second `set_enable(1)` is no fault in R108 (log 25). -/
def latchesHeld (w : Watch) : Event → Bool
  | .rs _ | .rw _ | .dir _ | .data _ => !w.e
  | .claim _ | .ctlOut | .e _ | .sample _ | .delay _ => true

/-- R211: "`RS`, `RW`, `DIR` and `DOUT` are written before `E` rises": a write pulse begins with a byte written since DOUT was last
unspecified (R16). -/
def byteWritten (w : Watch) : Event → Bool
  | .e true => w.rw || w.data.isSome
  | .claim _ | .ctlOut | .dir _ | .data _ | .rs _ | .rw _ | .e false | .sample _ | .delay _ => true

/-- R212: a write only after a status read that saw not busy, with no write between. -/
def writeWhenIdle (w : Watch) (ev : Event) : Bool := !w.isWrite ev || w.seenIdle

/-- R213: enable rises for a read only with the lines as inputs and enable low. -/
def readPulseSafe (w : Watch) : Event → Bool
  | .e true => !w.rw || (!w.e && (w.dir == .input))
  | _ => true

/-- R214: never RW = 1, DIR = OUTPUT and E = 1 together. -/
def oneDriver (w : Watch) (ev : Event) : Bool :=
  !((w.after ev).rw && (w.after ev).e && ((w.after ev).dir == .output))

/-- R218: a sample only after the settle wait, the fall of a write pulse only after the pulse wait. -/
def waitsKept (w : Watch) : Event → Bool
  | .sample _ => w.settled
  | .e false => !w.e || w.rw || w.pulsed
  | _ => true

/-- All seven. -/
def hazardFree (w : Watch) (ev : Event) : Bool :=
  dirSwitchSafe w ev && setupStable w ev && byteWritten w ev && writeWhenIdle w ev && readPulseSafe w ev && oneDriver w ev && waitsKept w ev

/-- The three that hold of every trace the model can make, raw bus-layer calls included: the others, and the rest of R211, are
kept only by the generated sequences. -/
def busSafe (w : Watch) (ev : Event) : Bool := dirSwitchSafe w ev && latchesHeld w ev && oneDriver w ev

/-! ### The invariant -/

/-- The watcher's latches are the block's, and so is the byte where the watcher knows it. -/
def Watch.agrees (w : Watch) (p : Pins) : Prop :=
  w.rs = p.rs ∧ w.rw = p.rw ∧ w.e = p.e ∧ w.dir = p.dir ∧ (w.data = none ∨ w.data = some p.dout)

/-- The invariant of the machine: the display RAM is in its canonical form (R42); BF is 1 exactly while a word is pending (R51,
R53, R65); before `configure` nothing has happened (R29); TRACE breaks neither R210 nor R214, and no latch is written while enable is high (R211, log 25); while LIFE is READY the latches
are what TRACE says (R25; DOUT where TRACE fixes it, R16) and enable is never high against the drivers; and a busy-wait stands only on a configured block with
a quiescent bus (R26). -/
structure State.Inv (s : State) : Prop where
  memory : Memory.wf s.ctl.ddram = true
  busyIffPending : s.ctl.bf = true ↔ s.ctl.pend ≠ .none
  untouched : s.life = .unconfigured → s.trace = []
  busSafe : Watch.all busSafe Watch.powerOn s.trace = true
  latches : s.life = .ready → (Watch.powerOn.afterAll s.trace).agrees s.pins
  oneDriver : s.life = .ready → ¬ (s.pins.rw = true ∧ s.pins.e = true ∧ s.pins.dir = .output)
  waiting : s.seq ≠ .idle → s.life = .ready ∧ s.pins.quiescent

end Sys2Proof.Machine
end

