-- ==== Sys2Proof/Certificates/Slice0/Obligations.lean ====
section
/-! DEFINITION. The statements for the provers, from the numbered rules of spec/. Where a rule follows a decision D<n> of
spec/92_eei_decisions.md (a fault, a refusal, the order of events), the statement follows it too. -/

open Sys2Proof Sys2Proof.Machine

/-! ### Encoding -/

/-- R71 to R80, R85: a few words written out bit by bit decode to what they stand for. The bit places of the shift word 0b00011000
are the spec's general knowledge of the part (R76; PRESUMED, log 16), where the display and function words are the source's own
examples (R75, R77); the second byte of a wire call and the operand byte of the last call are the model's own spelling (DESIGN
CHOICE, log 11). -/
def Obligations.SampleWordsDecode : Prop :=
  decode ⟨.w, [0b00000001, 0], []⟩ = .ok .wClearDisplay ∧
  decode ⟨.w, [0b00000010, 0], []⟩ = .ok .wReturnHome ∧
  decode ⟨.w, [0b00000110, 0], []⟩ = .ok (.wEntryModeSet true false) ∧
  decode ⟨.w, [0b00001110, 0], []⟩ = .ok (.wDisplayControl true true false) ∧
  decode ⟨.w, [0b00011000, 0], []⟩ = .ok (.wCursorOrDisplayShift true false) ∧
  decode ⟨.w, [0b00111000, 0], []⟩ = .ok (.wFunctionSet true true false) ∧
  decode ⟨.w, [0b10000101, 0], []⟩ = .ok (.wSetDdramAddress 5) ∧
  decode ⟨.w, [0b01101100, 0b10], []⟩ = .ok (.wWriteCharacter 0x6C) ∧
  decode ⟨.w, [0b10000000, 0b01], []⟩ = .ok (.wReadStatus 0x80) ∧
  decode ⟨.h, [0b01010], []⟩ = .ok .clearDisplay ∧
  decode ⟨.h, [0b00110, 1], []⟩ = .ok (.setEnable true)

/-- R72, R73, R78, R79: the words whose every bit the source fixes, in the packing of R70, which is the spec's own (D17). That a wire
call carries the word as the data byte and a second byte is the model's spelling (DESIGN CHOICE, log 11). -/
def Obligations.WireWords : Prop :=
  (∀ rs rw : Bool, ∀ db : Byte, (wireWord rs rw db).toNat = 512 * rs.toNat + 256 * rw.toNat + db.toNat) ∧
  encode .wClearDisplay = ⟨.w, [0b00000001, 0], []⟩ ∧
  encode .wReturnHome = ⟨.w, [0b00000010, 0], []⟩ ∧
  (∀ a : Addr, ∃ v : Byte, encode (.wSetDdramAddress a) = ⟨.w, [v, 0], []⟩ ∧ v.toNat = 128 + a.toNat) ∧
  (∀ a : Byte, (ddramAddressByte a).toNat = 128 + a.toNat % 128) ∧
  (∀ k : Byte, encode (.wWriteCharacter k) = ⟨.w, [k, 0b10], []⟩)

/-- Every instruction (each is well formed) is read back from its call: no operand bit is dropped, and texts of any length and
integers of any size are spelt (D15). The spelling of the operands is the model's (log 11). -/
def Obligations.DecodeOfEncode : Prop :=
  ∀ i : Instr, decode (encode i) = .ok i

/-- A call has one spelling: what decodes is the encoding of what it decodes to. The spelling of the operands is the model's
(log 11). -/
def Obligations.EncodeOfDecode : Prop :=
  ∀ (c : Call) (i : Instr), decode c = .ok i → encode i = c

/-- R71, R83: the words the decoder refuses are exactly the ones R83 lists. -/
def Obligations.UndecodedWordsAreNeverEmitted : Prop :=
  ∀ rs rw : Bool, ∀ v : Byte,
    decodeWire (wireWord rs rw v) = none ↔
      (rs = true ∧ rw = true) ∨
      (rs = false ∧ rw = false ∧
        (v = 0 ∨ v = 3 ∨ (0x10 ≤ v.toNat ∧ v.toNat < 0x40 ∧ v &&& 3 ≠ 0) ∨ (0x40 ≤ v.toNat ∧ v.toNat < 0x80)))

/-- R54 against R72 to R79: the controller's reading of a latched byte, by its highest set bit, is the command whose encoder made
the byte. -/
def Obligations.ControllerReadsWhatEncodersMake : Prop :=
  latchedCommand false clearDisplayByte = .clearDisplay ∧
  latchedCommand false returnHomeByte = .returnHome ∧
  (∀ i s, latchedCommand false (entryModeByte i s) = .entryModeSet i s) ∧
  (∀ d c b, latchedCommand false (displayControlByte d c b) = .displayControl d c b) ∧
  (∀ c r, latchedCommand false (shiftByte c r) = .shift c r) ∧
  (∀ l n f, latchedCommand false (functionSetByte l n f) = .functionSet l n f) ∧
  (∀ a : Byte, latchedCommand false (ddramAddressByte a) = .setDdramAddress (a.setWidth 7)) ∧
  (∀ k, latchedCommand true k = .character k)

/-! ### The step -/

/-- When HOST's next call decodes to an instruction and nothing is in progress, the step takes the call off the list and is `exec`
of the instruction; and a word placed with `withFetchWord` is what the next step runs. -/
def Obligations.StepRunsDecodedCall : Prop :=
  (∀ (s : State) (c : Call) (rest : List Call) (i : Instr),
    s.seq = .idle → s.calls = c :: rest → decode c = .ok i → step s = exec i { s with calls := rest }) ∧
  (∀ (s : State) (nbits w : Nat) (i : Instr),
    decodeTableWord nbits w = some i → step (s.withFetchWord nbits w) = exec i { s with seq := .idle })

/-- R85, R185: a call with a selector 0x17 to 0x1F is refused UnknownSelector; the selectors above, which a byte can spell and five
bits cannot, are refused with them (log 11). -/
def Obligations.UnusedSelectorsRefused : Prop :=
  ∀ (s : State) (op : Byte) (args : List Byte) (ints : List Int) (rest : List Call),
    s.seq = .idle → s.calls = ⟨.h, op :: args, ints⟩ :: rest → 0x17 ≤ op.toNat → step s = .refused .unknownSelector

/-- R200: with no call to take and no word pending in the controller, nothing happens. -/
def Obligations.NothingHappensWithoutCall : Prop :=
  ∀ s : State, s.seq = .idle → s.calls = [] → s.ctl.pend = .none → step s = .next s

/-- R29, R65, R200: power-on. -/
def Obligations.PowerOnValues : Prop :=
  State.reset.life = .unconfigured ∧ State.reset.seq = .idle ∧ State.reset.trace = [] ∧
  State.reset.ctl.bf = true ∧ State.reset.ctl.pend = .powerOn

/-- The invariant holds at power-on. -/
def Obligations.ResetMeetsInvariant : Prop := State.reset.Inv

/-- Every step keeps the invariant: the canonical form of the display RAM, BF exactly while a word is pending (R51 to R53), no
event before `configure`, TRACE free of the hazards R210 and R214 and with no write of RS, RW, DIR or DOUT while enable is high (of
R211 what raw bus-layer calls keep too: log 25), the latches as TRACE says, and a busy-wait only on a configured block with a
quiescent bus. Raw bus-layer calls are included. -/
def Obligations.StepKeepsInvariant : Prop :=
  ∀ s t : State, s.Inv → step s = .next t → t.Inv

/-- R10, R11: no step changes a parameter. -/
def Obligations.StepKeepsParameters : Prop :=
  ∀ s t : State, step s = .next t → t.cfg = s.cfg

/-- R19: READY and FAILED are never left. -/
def Obligations.LifecycleNeverGoesBack : Prop :=
  ∀ s t : State, step s = .next t →
    (s.life = .ready → t.life = .ready) ∧ (s.life = .failed → t.life = .failed)

/-- R25: TRACE only grows; what has been done stays done (R176). -/
def Obligations.TraceOnlyGrows : Prop :=
  ∀ s t : State, step s = .next t → ∃ evs, t.trace = s.trace ++ evs

/-! ### Refused calls -/

/-- R100, R185: every operation but `configure` and `initialize` is refused NotConfigured unless LIFE is READY, whatever its own
checks would say (R178). -/
def Obligations.NotConfiguredRefused : Prop :=
  ∀ (s : State) (i : Instr), s.seq = .idle → s.life ≠ .ready → i ≠ .configure →
    (∀ n c b, i ≠ .initialise n c b) → exec i s = .refused .notConfigured

/-- R101, R185: `configure` and `initialize` are refused ConfigureTwice unless LIFE is UNCONFIGURED. -/
def Obligations.SecondConfigureRefused : Prop :=
  ∀ (s : State) (n : LineCount) (c b : Bool), s.seq = .idle → s.life ≠ .unconfigured →
    exec .configure s = .refused .configureTwice ∧ exec (.initialise n c b) s = .refused .configureTwice

/-- R185, R216: any call while an operation is in progress is refused Reentered. For `configure` and `initialize`, which meet
ConfigureTwice as well, that Reentered comes first is the model's choice (DESIGN CHOICE, log 23). -/
def Obligations.ReenteredRefused : Prop :=
  ∀ (s : State) (i : Instr), s.seq ≠ .idle → exec i s = .refused .reentered

/-! ### Bus layer. `ctlGap s.entered = .next u` says what the controller did in the gap before the operation's event. -/

/-- R101, R201: `configure` with a successful claim leaves the table of R201 (DOUT and AUX unspecified), and cannot be called again: the
refusal is the spec's own decision (D6). That the controller does nothing inside `configure`, so that it is where the gap before
left it, is read from the atomicity of D27 (DEDUCED, log 21). -/
def Obligations.ConfigureLeavesQuiescentBus : Prop :=
  ∀ s u : State, s.seq = .idle → s.life = .unconfigured → s.env.claimOk = true → ctlGap s.entered = .next u →
    ∃ t, exec .configure s = .next t ∧ t.life = .ready ∧ t.pins.quiescent ∧
      t.pins.ctrlDir = ⟨.output, .output, .output, .output⟩ ∧
      t.trace = s.trace ++ [.claim true, .ctlOut, .dir .input, .rs false, .rw true, .e false] ∧
      t.cfg = s.cfg ∧ t.calls = s.calls ∧ t.ctl = u.ctl ∧ t.env = u.env ∧ t.seq = .idle ∧ t.ret = some .nothing ∧
      exec .configure t = .refused .configureTwice

/-- R101, R171: `configure` with a failed claim returns PinClaimFailure. -/
def Obligations.ConfigureReportsFailedClaim : Prop :=
  ∀ s u : State, s.seq = .idle → s.life = .unconfigured → s.env.claimOk = false → ctlGap s.entered = .next u →
    ∃ t, exec .configure s = .next t ∧ t.life = .failed ∧ t.trace = s.trace ++ [.claim false] ∧
      t.ret = some (.raised .pinClaimFailure) ∧ t.cfg = s.cfg ∧ t.calls = s.calls ∧ t.ctl = u.ctl ∧ t.env = u.env ∧
      t.seq = .idle

/-- R102: with enable high `set_bus_direction` faults; with enable low it switches all eight lines and touches no other latch (DOUT
is unspecified where DIR becomes OUTPUT, R16: log 6; AUX under no law, R14: left out). -/
def Obligations.DirectionSwitchCompletes : Prop :=
  ∀ (s : State) (d : BusDir), s.accepts →
    (s.pins.e = true → exec (.setBusDirection d) s = .fault .dirSwitchWhileEnableHigh) ∧
    (s.pins.e = false → ∀ u, ctlGap s.entered = .next u →
      ∃ t, exec (.setBusDirection d) s = .next t ∧ busReturn s u t .nothing ∧ t.pins.dir = d ∧
        t.pins.rs = s.pins.rs ∧ t.pins.rw = s.pins.rw ∧ t.pins.e = s.pins.e ∧ t.pins.ctrlDir = s.pins.ctrlDir ∧
        (d = .input ∨ s.pins.dir = .output → t.pins.dout = s.pins.dout) ∧ t.trace = s.trace ++ [.dir d])

/-- R103 (the refusal and the fault: D9, D34): `write_byte` is refused WrongDirection with the lines as inputs; with the lines as
outputs it faults with enable high, and with enable low it writes DOUT and nothing else, and data line i carries bit i of the
value. -/
def Obligations.WriteByteCompletes : Prop :=
  ∀ (s : State) (v : Byte), s.accepts →
    (s.pins.dir = .input → exec (.writeByte v) s = .refused .wrongDirection) ∧
    (s.pins.dir = .output → s.pins.e = true → exec (.writeByte v) s = .fault .changeWhileEnableHigh) ∧
    (s.pins.dir = .output → s.pins.e = false → ∀ u, ctlGap s.entered = .next u →
      ∃ t, exec (.writeByte v) s = .next t ∧ busReturn s u t .nothing ∧ t.pins = { s.pins with dout := v } ∧
        t.trace = s.trace ++ [.data v] ∧
        (s.cfg.pins.wf = true → ∀ i < 8, t.pinLevel (s.cfg.pins.dBase + i) = some (v.getLsbD i)))

/-- R104, R44: `read_byte` is refused WrongDirection with the lines as outputs; with the lines as inputs it returns the byte it
sampled, changes no pin, and in a status read bit 7 is the busy flag as it stands at the sample (also before T_SETTLE: log 14). That
the sample of a character read (RS = 1, RW = 1) leaves AC alone is the model's choice (DESIGN CHOICE, log 26). -/
def Obligations.ReadByteCompletes : Prop :=
  ∀ s : State, s.accepts →
    (s.pins.dir = .output → exec .readByte s = .refused .wrongDirection) ∧
    (s.pins.dir = .input → ∀ u, ctlGap s.entered = .next u →
      ∃ t v, exec .readByte s = .next t ∧ busReturn s u t (.byte v) ∧ t.pins = s.pins ∧ t.trace = s.trace ++ [.sample v] ∧
        (s.pins.e = true ∧ s.pins.rw = true ∧ s.pins.rs = false → v.getLsbD 7 = u.ctl.bf))

/-- R105 to R107 (the fault: D34): with enable high the two single-pin operations fault; with enable low each writes its latch and
nothing else. -/
def Obligations.SelectPinsComplete : Prop :=
  ∀ (s : State) (b : Bool), s.accepts →
    (s.pins.e = true → exec (.setRegisterSelect b) s = .fault .changeWhileEnableHigh ∧
      exec (.setReadWrite b) s = .fault .changeWhileEnableHigh) ∧
    (s.pins.e = false → ∀ u, ctlGap s.entered = .next u →
      (∃ t, exec (.setRegisterSelect b) s = .next t ∧ busReturn s u t .nothing ∧ t.pins = { s.pins with rs := b } ∧
        t.trace = s.trace ++ [.rs b]) ∧
      (∃ t, exec (.setReadWrite b) s = .next t ∧ busReturn s u t .nothing ∧ t.pins = { s.pins with rw := b } ∧
        t.trace = s.trace ++ [.rw b]))

/-- R108: an enable write that ends no write pulse and starts no contention sets E and nothing else. That a second `set_enable(1)` with
enable high is among them, and completes with its event where R211 gives ChangeWhileEnableHigh for a violation, is the model's
reading of R108 and R184 (DEDUCED, log 25). That AC stays also where the edge ends a character read (RS = 1, RW = 1) is the
model's choice (DESIGN CHOICE, log 26). -/
def Obligations.EnableCompletesWithoutLatch : Prop :=
  ∀ (s u : State) (b : Bool), s.accepts → ctlGap s.entered = .next u →
    ¬ (s.pins.e = true ∧ b = false ∧ s.pins.rw = false) →
    ¬ (s.pins.e = false ∧ b = true ∧ s.pins.rw = true ∧ s.pins.dir = .output) →
    ∃ t, exec (.setEnable b) s = .next t ∧ busReturn s u t .nothing ∧ t.pins = { s.pins with e := b } ∧
      t.trace = s.trace ++ [.e b]

/-- R46, R52, R108: the falling edge of a write pulse with the lines as outputs latches (RS, DOUT) into an idle controller. R48: where TRACE
is the block's (the invariant), the transaction trace gains that write, with DOUT as its byte or with none where TRACE does not fix
DOUT (R16, D24), which is never so in a trace that breaks no hazard rule. -/
def Obligations.FallingEnableLatchesWord : Prop :=
  ∀ s u : State, s.accepts → ctlGap s.entered = .next u → s.pins.e = true → s.pins.rw = false → s.pins.dir = .output →
    u.ctl.bf = false →
    ∃ t, exec (.setEnable false) s = .next t ∧ t.ctl = { u.ctl with bf := true, pend := .word s.pins.rs s.pins.dout } ∧
      t.pins = { s.pins with e := false } ∧ t.trace = s.trace ++ [.e false] ∧ t.env.due = u.env.next ∧
      t.cfg = s.cfg ∧ t.life = s.life ∧ t.calls = s.calls ∧ t.seq = .idle ∧ t.ret = some .nothing ∧
      (s.Inv → ∃ b, Watch.powerOn.txns t.trace = Watch.powerOn.txns s.trace ++ [.wr s.pins.rs b] ∧
        (b = none ∨ b = some s.pins.dout) ∧
        (Watch.all hazardFree Watch.powerOn t.trace = true → b = some s.pins.dout))

/-- R52, R108, R184: the three faults of `set_enable`. -/
def Obligations.EnableEdgeFaults : Prop :=
  ∀ s u : State, s.accepts → ctlGap s.entered = .next u →
    (s.pins.e = true → s.pins.rw = false → s.pins.dir = .input → exec (.setEnable false) s = .fault .writeWithBusInput) ∧
    (s.pins.e = true → s.pins.rw = false → s.pins.dir = .output → u.ctl.bf = true →
      exec (.setEnable false) s = .fault .writeWhileBusy) ∧
    (s.pins.e = false → s.pins.rw = true → s.pins.dir = .output → exec (.setEnable true) s = .fault .busContention)

/-- R109, R80: with the lines as inputs and enable low, and where no completion in its six gaps is a fault, a poll (called as
`poll_busy` or as the word READ_STATUS, log 13) makes the six events, returns bit 7 of its sample and leaves the bus quiescent.
Bit 7 is the busy flag at P5: the flag before the poll where the controller does not complete before the sample, and 0 where it
does, which is in the five gaps up to P5 (the count of gaps is log 2). With nothing pending, or with a controller that never
completes, the poll changes nothing in the controller. -/
def Obligations.PollCompletes : Prop :=
  ∀ (s : State) (i : Instr) (x : Byte), s.accepts → s.pins.dir = .input → s.pins.e = false →
    (∀ d n rs v, s.ctl.pend = .word rs v → s.env.due = some d → d < 6 → ∃ c, ctlEffect s.cfg n rs v s.ctl = .ok c) →
    (i = .pollBusy ∨ i = .wReadStatus x) →
    ∃ t v, exec i s = .next t ∧ t.ret = some (.bool (v.getLsbD 7)) ∧ t.trace = s.trace ++ pollEvents v ∧
      t.pins = { s.pins with rs := false, rw := true } ∧
      t.cfg = s.cfg ∧ t.life = s.life ∧ t.calls = s.calls ∧ t.seq = .idle ∧
      (s.ctl.pend = .none ∨ s.env.due = none → t.ctl = s.ctl ∧ v.getLsbD 7 = s.ctl.bf) ∧
      (∀ d, s.ctl.pend ≠ .none → s.env.due = some d → 5 ≤ d → v.getLsbD 7 = s.ctl.bf) ∧
      (∀ d, s.ctl.pend ≠ .none → s.env.due = some d → d < 5 → v.getLsbD 7 = false ∧ t.ctl.bf = false ∧ t.ctl.pend = .none)

/-- R109, R184: a poll with the lines as outputs or with enable high faults PollDuringWrite, in every form that polls. -/
def Obligations.PollDuringWriteFaults : Prop :=
  ∀ (s : State) (x : Byte), s.accepts → (s.pins.dir = .output ∨ s.pins.e = true) →
    exec .pollBusy s = .fault .pollDuringWrite ∧ exec (.wReadStatus x) s = .fault .pollDuringWrite ∧
    exec .waitNotBusy s = .fault .pollDuringWrite

/-- R21, R109: busy iff the sampled byte is at least 128. -/
def Obligations.BusyIffAtLeast128 : Prop := ∀ v : Byte, busy v = true ↔ 128 ≤ v.toNat

/-- R16, R45, R103: with a pin assignment that meets R11, data line i is pin `dBase + i` and carries DOUT[i] while DIR is OUTPUT;
with DIR = INPUT the block drives none of them. -/
def Obligations.DataLinesCarryDout : Prop :=
  ∀ (s : State) (i : Nat), s.cfg.pins.wf = true → i < 8 →
    s.pinLevel (s.cfg.pins.dBase + i) = if s.pins.dir = .output then some (s.pins.dout.getLsbD i) else none

/-! ### The controller -/

/-- R52, R53: what the controller may do in a gap. -/
def Obligations.ControllerMovesInGap : Prop :=
  (∀ s : State, s.ctl.pend = .none → ctlGap s = .next s) ∧
  (∀ s : State, s.env.due = none → ctlGap s = .next s) ∧
  (∀ (s : State) (n : Nat), s.ctl.pend ≠ .none → s.env.due = some (n + 1) →
    ctlGap s = .next { s with env := { s.env with due := some n } }) ∧
  (∀ (s : State) (rs : Bool) (v : Byte) (c : Ctl), s.ctl.pend = .word rs v → s.env.due = some 0 →
    ctlEffect s.cfg s.draws rs v s.ctl = .ok c →
    ∃ t, ctlGap s = .next t ∧ t.ctl = { c with bf := false, pend := .none } ∧ t.pins = s.pins ∧ t.trace = s.trace) ∧
  (∀ (s : State) (rs : Bool) (v : Byte) (f : Fault), s.ctl.pend = .word rs v → s.env.due = some 0 →
    ctlEffect s.cfg s.draws rs v s.ctl = .error f → ctlGap s = .fault f)

/-- R60, R83, R184: a completed FUNCTION_SET with the bus-width bit 0 faults FourBitModeSelected, and a completed byte 0x00 faults
UnknownCommand. -/
def Obligations.CompletionFaults : Prop :=
  ∀ (s : State) (n f : Bool), s.env.due = some 0 →
    (s.ctl.pend = .word false (functionSetByte false n f) → ctlGap s = .fault .fourBitModeSelected) ∧
    (s.ctl.pend = .word false 0 → ctlGap s = .fault .unknownCommand)

/-- R63: the address step inside the lines. -/
def Obligations.AddressStepInsideLines : Prop :=
  ∀ a : Addr,
    (validCell (a.toNat + 1) = true → (acStep a true).toNat = a.toNat + 1) ∧
    (0 < a.toNat → validCell (a.toNat - 1) = true → (acStep a false).toNat = a.toNat - 1)

/-! ### The instruction layer: each instruction, called as an operation or as its wire word, from a settled state with a
responsive controller. The next state is written out in full, so each is also the instruction's frame. -/

/-- R120, R54: `execute_instruction(rs, byte)` for every byte whose effect is no fault. -/
def Obligations.ExecuteInstructionCompletes : Prop :=
  ∀ (s : State) (rs : Bool) (v : Byte) (e : Nat → Ctl), s.runnable → (∀ n, ctlEffect s.cfg n rs v s.ctl = .ok (e n)) →
    ∃ p, exec (.executeInstruction rs v) s = .next (finish .nothing
      (s.executed rs v p (effectDraws rs v) { e (s.draws + 1 + p) with bf := false, pend := .none }))

/-- R55, R72, R123: AC is 0 and ID is 1; what every cell holds, the window shift and SH are as the configuration says (for the
standard part, whose facts are general knowledge (G8) and not the source's: 0x20, undone, and left alone; log 9). -/
def Obligations.ClearDisplayCompletes : Prop :=
  ∀ (s : State) (i : Instr), s.runnable → (i = .clearDisplay ∨ i = .wClearDisplay) →
    ∃ p, exec i s = .next (finish .nothing (s.executed false 0x01 p 0
      { s.ctl with
        regs := { s.ctl.regs with
          ac := 0, id := true, sh := s.cfg.clearShift.getD s.ctl.regs.sh
          ofs := if s.cfg.clearUnshifts then 0 else s.ctl.regs.ofs }
        ddram := Memory.fill s.cfg.clearFill }))

/-- R56, R73, R124. -/
def Obligations.ReturnHomeCompletes : Prop :=
  ∀ (s : State) (i : Instr), s.runnable → (i = .returnHome ∨ i = .wReturnHome) →
    ∃ p, exec i s = .next (finish .nothing (s.executed false 0x02 p 0
      { s.ctl with regs := { s.ctl.regs with ac := 0, ofs := 0 } }))

/-- R57, R74, R125. -/
def Obligations.EntryModeSetCompletes : Prop :=
  ∀ (s : State) (i : Instr) (inc sh : Bool), s.runnable → (i = .entryModeSet inc sh ∨ i = .wEntryModeSet inc sh) →
    ∃ p, exec i s = .next (finish .nothing
      (s.executed false (0x04 ||| (if inc then 2 else 0) ||| (if sh then 1 else 0)) p 0
        { s.ctl with regs := { s.ctl.regs with id := inc, sh := sh } }))

/-- R58, R75, R126. -/
def Obligations.DisplayControlCompletes : Prop :=
  ∀ (s : State) (i : Instr) (d c b : Bool), s.runnable → (i = .displayControl d c b ∨ i = .wDisplayControl d c b) →
    ∃ p, exec i s = .next (finish .nothing
      (s.executed false (0x08 ||| (if d then 4 else 0) ||| (if c then 2 else 0) ||| (if b then 1 else 0)) p 0
        { s.ctl with regs := { s.ctl.regs with d := d, c := c, b := b } }))

/-- R59, R76, R127, for the standard part's cursor move: with shift_display the window moves one place and AC stays, without it AC
steps and the window stays. -/
def Obligations.ShiftCompletes : Prop :=
  ∀ (s : State) (i : Instr) (sd right : Bool), s.runnable → s.cfg.cursorMovesAc = true →
    (i = .cursorOrDisplayShift sd right ∨ i = .wCursorOrDisplayShift sd right) →
    ∃ p, exec i s = .next (finish .nothing
      (s.executed false (0x10 ||| (if sd then 8 else 0) ||| (if right then 4 else 0)) p 0
        { s.ctl with
          regs := { s.ctl.regs with
            ofs := if sd then (if right then s.ctl.regs.ofs + 1 else s.ctl.regs.ofs - 1) else s.ctl.regs.ofs
            ac := if sd then s.ctl.regs.ac else acStep s.ctl.regs.ac right } }))

/-- R60, R77, R128: with the 8-bit bus selected, DL, N and F take the operands. -/
def Obligations.FunctionSetCompletes : Prop :=
  ∀ (s : State) (i : Instr) (n f : Bool), s.runnable → (i = .functionSet true n f ∨ i = .wFunctionSet true n f) →
    ∃ p, exec i s = .next (finish .nothing
      (s.executed false (0x30 ||| (if n then 8 else 0) ||| (if f then 4 else 0)) p 0
        { s.ctl with regs := { s.ctl.regs with dl := true, n := n, f := f } }))

/-- R60, R128, R184: without the 8-bit bus a responsive controller's completion faults. -/
def Obligations.FourBitModeFaults : Prop :=
  ∀ (s : State) (i : Instr) (n f : Bool), s.runnable → (i = .functionSet false n f ∨ i = .wFunctionSet false n f) →
    exec i s = .fault .fourBitModeSelected

/-- R61, R78, R129: AC is the low seven bits of the operand where that is a cell of the two lines; else a configuration function
(U6). Bit 7 of the operand is dropped. -/
def Obligations.SetDdramAddressCompletes : Prop :=
  ∀ (s : State) (i : Instr) (a : Byte), s.runnable →
    (i = .setDdramAddress a ∨ i = .wSetDdramAddress (a.setWidth 7)) →
    ∃ p, exec i s = .next (finish .nothing (s.executed false (0x80 ||| (a &&& 0x7F)) p 0
      { s.ctl with regs := { s.ctl.regs with
          ac := if validCell (a.toNat % 128) then a.setWidth 7 else Config.acOutside (a.setWidth 7) } }))

/-- R62, R79, R130, for the standard part: the code is stored at AC where AC is a cell of the two lines, AC steps by the entry mode,
the window moves one place the other way if SH is set, and every other cell and register is as before. -/
def Obligations.WriteCharacterCompletes : Prop :=
  ∀ (s : State) (i : Instr) (k : Byte), s.runnable → s.cfg.writeShiftsAgainst = true →
    validCell s.ctl.regs.ac.toNat = true → (i = .writeCharacter k ∨ i = .wWriteCharacter k) →
    ∃ p, exec i s = .next (finish .nothing (s.executed true k p 0
      { s.ctl with
        regs := { s.ctl.regs with
          ac := acStep s.ctl.regs.ac s.ctl.regs.id
          ofs := if s.ctl.regs.sh then (if s.ctl.regs.id then s.ctl.regs.ofs - 1 else s.ctl.regs.ofs + 1)
            else s.ctl.regs.ofs }
        ddram := Memory.write s.ctl.ddram s.ctl.regs.ac.toNat k }))

/-- R62, U6: a character write changes the cell `writeCell` gives for AC, if it gives one, to the code, and no other cell, wherever
AC stands. -/
def Obligations.CharacterWriteFrame : Prop :=
  ∀ (s : State) (i : Instr) (k : Byte), s.runnable → (i = .writeCharacter k ∨ i = .wWriteCharacter k) →
    ∃ t, exec i s = .next t ∧
      (∀ a, writeCell s.ctl.regs.ac = some a → Memory.read t.ctl.ddram a.toNat = some k) ∧
      (∀ x : Nat, (∀ a, writeCell s.ctl.regs.ac = some a → a.toNat ≠ x) →
        Memory.read t.ctl.ddram x = Memory.read s.ctl.ddram x)

/-- R122: the busy-wait alone, from a quiescent bus: with a controller that is idle, or whose pending word has an effect that is no
fault and will complete, it ends with not busy, after some number of busy polls. -/
def Obligations.WaitNotBusyCompletes : Prop :=
  ∀ s : State, s.accepts → s.pins.quiescent → s.cfg.pollLimit = none →
    ((s.ctl.pend = .none ∧ s.ctl.bf = false) ∨
      (s.env.due ≠ none ∧ s.ctl.bf = true ∧
        (s.ctl.pend = .powerOn ∨
          ∃ rs v, s.ctl.pend = .word rs v ∧ ∀ n, ∃ c, ctlEffect s.cfg n rs v s.ctl = .ok c))) →
    ∃ t p n, exec .waitNotBusy s = .next t ∧ t.trace = s.trace ++ busyRounds p s.draws ++ pollEvents (statusByte false n) ∧
      t.ctl.bf = false ∧ t.ctl.pend = .none ∧ t.pins = s.pins ∧ t.cfg = s.cfg ∧ t.life = s.life ∧ t.calls = s.calls ∧
      t.seq = .idle ∧ t.ret = some .nothing ∧
      (s.ctl.pend = .none → t.ctl = s.ctl)

/-- R131, R132: the stubs succeed, or return 0, and change nothing (D14: the spec's reading of "unimplemented"). -/
def Obligations.StubsComplete : Prop :=
  ∀ (s : State) (a : Byte), s.accepts →
    exec (.setCgramAddress a) s = .next (finish .ok s) ∧ exec .readCharacter s = .next (finish (.byte 0) s)

/-! ### The API -/

/-- R150, R202, for the standard part: `initialize` with a successful claim and a responsive controller leaves the controller as the
table of R202 says, the bus quiescent, and has sent exactly the four commands after seeing not busy. -/
def Obligations.InitialiseCompletes : Prop :=
  ∀ (s : State) (n : LineCount) (c b : Bool), s.seq = .idle → s.life = .unconfigured → s.env.claimOk = true →
    s.cfg.pollLimit = none → s.cfg.standardPart = true → s.responsive →
    ((s.ctl.pend = .powerOn ∧ s.ctl.bf = true) ∨ (s.ctl.pend = .none ∧ s.ctl.bf = false)) →
    ∃ t evs, exec (.initialise n c b) s = .next t ∧ t.settled ∧ t.ret = some .ok ∧ t.cfg = s.cfg ∧ t.calls = s.calls ∧
      t.pins.ctrlDir = ⟨.output, .output, .output, .output⟩ ∧
      t.ctl.regs =
        { ac := 0, id := true, sh := false, d := true, c := c, b := b, dl := true, n := decide (n = .two), f := false
          ofs := 0 } ∧
      t.ctl.ddram = Memory.fill 0x20 ∧
      t.trace = s.trace ++ [.claim true, .ctlOut, .dir .input, .rs false, .rw true, .e false] ++ evs ∧
      (Watch.powerOn.txns evs).filter (fun x => match x with | .wr _ _ => true | .rd _ => false) =
        [.wr false (some 0x01), .wr false (some (if n = .two then 0x38 else 0x30)),
          .wr false (some (0x0C ||| (if c then 2 else 0) ||| (if b then 1 else 0))), .wr false (some 0x06)] ∧
      Watch.all hazardFree Watch.powerOn evs = true

/-- R150, R171: `initialize` with a failed claim returns PinClaimFailure and does nothing further. -/
def Obligations.InitialiseReportsFailedClaim : Prop :=
  ∀ (s u : State) (n : LineCount) (c b : Bool), s.seq = .idle → s.life = .unconfigured → s.env.claimOk = false →
    ctlGap s.entered = .next u →
    ∃ t, exec (.initialise n c b) s = .next t ∧ t.life = .failed ∧ t.trace = s.trace ++ [.claim false] ∧
      t.ret = some (.raised .pinClaimFailure) ∧ t.ctl = u.ctl ∧ t.seq = .idle

/-- R151: an accepted text is written code by code: the write transactions are the codes in order, the controller has had one
character write for each, and the block returns Ok in a settled state. -/
def Obligations.PrintStringCompletes : Prop :=
  ∀ (s : State) (text : List Byte), s.settled → s.cfg.pollLimit = none → s.responsive →
    0 < text.length → text.length ≤ s.cfg.lineCap →
    ∃ t evs, exec (.printString text) s = .next t ∧ t.settled ∧ t.ret = some .ok ∧ t.cfg = s.cfg ∧ t.calls = s.calls ∧
      t.ctl = text.foldl (fun c k => ctlCharacter s.cfg k c) s.ctl ∧ t.trace = s.trace ++ evs ∧
      ((Watch.quiescent true).txns evs).filter (fun x => match x with | .wr _ _ => true | .rd _ => false) =
        text.map (fun k => .wr true (some k))

/-- R151, R172: an empty or over-long text is rejected InvalidInput; nothing but HOST's result changes (the transient registers are
none, as they are at every return). -/
def Obligations.PrintStringRejects : Prop :=
  ∀ (s : State) (text : List Byte), s.accepts → (text.length = 0 ∨ s.cfg.lineCap < text.length) →
    exec (.printString text) s = .next (finish (.raised .invalidInput) s)

/-- R152: an accepted position sends one address-set, of `column` for row 0 and `0x40 + column` for row 1. -/
def Obligations.SetCursorLocationCompletes : Prop :=
  ∀ (s : State) (row : Bool) (column : Nat), s.runnable → column < s.cfg.cols.width →
    ∃ p, exec (.setCursorLocation (if row then 1 else 0) column) s = .next (finish .ok
      (s.executed false (0x80 ||| BitVec.ofNat 8 ((if row then 0x40 else 0) + column)) p 0
        { s.ctl with regs := { s.ctl.regs with ac := BitVec.ofNat 7 ((if row then 0x40 else 0) + column) } }))

/-- R152, R172: a row other than 0 and 1, or a column outside 0 to COLS - 1, is rejected InvalidInput. -/
def Obligations.SetCursorLocationRejects : Prop :=
  ∀ (s : State) (row column : Int), s.accepts →
    ((row ≠ 0 ∧ row ≠ 1) ∨ column < 0 ∨ (s.cfg.cols.width : Int) - 1 < column) →
    exec (.setCursorLocation row column) s = .next (finish (.raised .invalidInput) s)

/-! ### The busy-wait's other ends -/

/-- R122, R173, R153: with POLL_LIMIT = some m and a controller that completes only after the polls the limit allows, or never, a
busy-wait raises ControllerUnresponsive after `max m 1` busy polls (R122 polls before it tests, so `some 0` polls once), with the
bus quiescent and the controller as it was before the wait. So it is for every operation that sends a word (in the wait of its
first word, which stays sent and pending), for `wait_not_busy`, and for the first wait of `initialize`. How late the controller
is, is counted in gaps between events (log 2): a poll has six and a round seven, three follow a latch before the wait and one
goes with `configure`. -/
def Obligations.BoundedWaitRaises : Prop :=
  ∀ (s : State) (m : Nat), s.cfg.pollLimit = some m →
    (∀ (i : Instr) (rs : Bool) (v : Byte), s.settled → firstWord s.cfg i = some (rs, v) →
      lateFor (7 * max m 1 + 2) s.env.next →
      ∃ t, exec i s = .next t ∧ t.ret = some (.raised .controllerUnresponsive) ∧ t.accepts ∧ t.pins.quiescent ∧
        t.cfg = s.cfg ∧ t.calls = s.calls ∧ t.ctl = { s.ctl with bf := true, pend := .word rs v } ∧
        t.trace = s.trace ++ writeEvents rs v ++ busyRounds (max m 1 - 1) (s.draws + 1) ++
          pollEvents (statusByte true (s.draws + max m 1))) ∧
    (s.accepts → s.pins.quiescent → s.ctl.bf = true → s.ctl.pend ≠ .none → lateFor (7 * max m 1 - 1) s.env.due →
      ∃ t, exec .waitNotBusy s = .next t ∧ t.ret = some (.raised .controllerUnresponsive) ∧ t.accepts ∧ t.pins = s.pins ∧
        t.cfg = s.cfg ∧ t.calls = s.calls ∧ t.ctl = s.ctl ∧
        t.trace = s.trace ++ busyRounds (max m 1 - 1) s.draws ++ pollEvents (statusByte true (s.draws + (max m 1 - 1)))) ∧
    (∀ (n : LineCount) (c b : Bool), s.seq = .idle → s.life = .unconfigured → s.env.claimOk = true → s.ctl.bf = true →
      s.ctl.pend ≠ .none → lateFor (7 * max m 1) s.env.due →
      ∃ t, exec (.initialise n c b) s = .next t ∧ t.ret = some (.raised .controllerUnresponsive) ∧ t.accepts ∧
        t.pins.quiescent ∧ t.cfg = s.cfg ∧ t.calls = s.calls ∧ t.ctl = s.ctl ∧
        t.trace = s.trace ++ [.claim true, .ctlOut, .dir .input, .rs false, .rw true, .e false] ++
          busyRounds (max m 1 - 1) (s.draws + 1) ++ pollEvents (statusByte true (s.draws + max m 1)))

/-- R122, R174: in the reference design, with a controller that never completes, every operation that sends a word (its first word),
`wait_not_busy`, and `initialize` (in its first wait; and in the wait of `clear_display`, where the controller is idle at the
call and never completes the word) does what comes before the wait and then stands at W1: HOST has no result. That one step of
the model ends there, after one busy poll, is log 12. -/
def Obligations.UnansweredOperationWaits : Prop :=
  ∀ s : State, s.cfg.pollLimit = none →
    (∀ (i : Instr) (rs : Bool) (v : Byte), s.settled → s.env.next = none → firstWord s.cfg i = some (rs, v) →
      ∃ t stack, exec i s = .next t ∧ t.seq = .waiting 1 stack ∧ t.ret = none ∧ t.pins.quiescent ∧
        t.ctl = { s.ctl with bf := true, pend := .word rs v } ∧ t.env.due = none ∧
        t.trace = s.trace ++ writeEvents rs v ++ busyRounds 1 (s.draws + 1)) ∧
    (s.accepts → s.pins.quiescent → s.ctl.bf = true → s.env.due = none →
      ∃ t, exec .waitNotBusy s = .next t ∧ t.seq = .waiting 1 [] ∧ t.ret = none ∧ t.pins = s.pins ∧ t.ctl = s.ctl ∧
        t.env.due = none ∧ t.trace = s.trace ++ busyRounds 1 s.draws) ∧
    (∀ (n : LineCount) (c b : Bool), s.seq = .idle → s.life = .unconfigured → s.env.claimOk = true →
      (s.ctl.bf = true → s.env.due = none →
        ∃ t, exec (.initialise n c b) s = .next t ∧ t.seq = .waiting 1 [.initialise .i2 n c b] ∧ t.ret = none ∧
          t.life = .ready ∧ t.pins.quiescent ∧ t.ctl = s.ctl ∧ t.env.due = none ∧
          t.trace = s.trace ++ [.claim true, .ctlOut, .dir .input, .rs false, .rw true, .e false] ++
            busyRounds 1 (s.draws + 1)) ∧
      (s.ctl.bf = false → s.ctl.pend = .none → s.env.next = none →
        ∃ t stack, exec (.initialise n c b) s = .next t ∧ t.seq = .waiting 1 stack ∧ t.ret = none ∧
          t.life = .ready ∧ t.pins.quiescent ∧ t.ctl = { s.ctl with bf := true, pend := .word false 0x01 } ∧
          t.env.due = none ∧
          t.trace = s.trace ++ [.claim true, .ctlOut, .dir .input, .rs false, .rw true, .e false] ++
            pollEvents (statusByte false (s.draws + 1)) ++ writeEvents false 0x01 ++ busyRounds 1 (s.draws + 3)))

/-- R174: ProtocolHang. A busy-wait on a busy controller that never completes makes one more round at every step and nothing else
changes, so it meets the same conditions again and the run is infinite. That one step of the model is exactly one round of such
a wait is the model's choice (R24 gives one event a step or one whole operation; DESIGN CHOICE, log 12). -/
def Obligations.HangGoesOnForEver : Prop :=
  ∀ (s : State) (n : Nat) (stack : List Frame), s.seq = .waiting n stack → s.pins.quiescent → s.cfg.pollLimit = none →
    s.env.due = none → s.ctl.bf = true →
    step s = .next { s with
      seq := .waiting (n + 1) stack, sample := none, draws := s.draws + 1, trace := s.trace ++ busyRounds 1 s.draws }

/-! ### Whole-machine rules -/

/-- R26, R66, R121: an operation of the api or instr tier that returns in a settled state with a responsive controller leaves a
settled state: the bus quiescent, the controller idle. -/
def Obligations.UpperTierReturnsSettled : Prop :=
  ∀ (s t : State) (i : Instr), s.settled → s.cfg.pollLimit = none → s.responsive → upperTier i = true →
    exec i s = .next t → t.settled

/-- R121, R210 to R214, R218: every one-word operation that completes has made exactly one write transaction, its word, followed by
status reads of which all but the last saw busy and the last did not; the controller was not busy at the latch (R121: the
premise `settled`; the latch would have faulted), it is not busy at the return, and the whole sequence breaks none of the hazard
rules. -/
def Obligations.OneWordOneWrite : Prop :=
  ∀ (s : State) (i : Instr) (rs : Bool) (v : Byte) (e : Nat → Ctl), s.runnable → wordOf i = some (rs, v) →
    (∀ n, ctlEffect s.cfg n rs v s.ctl = .ok (e n)) →
    ∃ (t : State) (evs : List Event) (reads : List Byte) (last : Byte), exec i s = .next t ∧ t.trace = s.trace ++ evs ∧
      t.ctl.bf = false ∧ t.ctl.pend = .none ∧ t.ret = some .nothing ∧
      (Watch.quiescent true).txns evs = .wr rs (some v) :: (reads.map Txn.rd ++ [.rd last]) ∧
      (∀ x ∈ reads, busy x = true) ∧ busy last = false ∧
      Watch.all hazardFree (Watch.quiescent true) evs = true

/-- R68, R61, R62: an address-set followed by a character write stores the code at that address, whatever address of the two lines
it is, and the second call's events begin with RS(1): no poll comes between. -/
def Obligations.AddressThenDataStores : Prop :=
  ∀ (s t : State) (a k : Byte), s.settled → s.cfg.pollLimit = none → s.responsive → validCell (a.toNat % 128) = true →
    exec (.setDdramAddress a) s = .next t →
    ∃ u evs, exec (.writeCharacter k) t = .next u ∧ Memory.read u.ctl.ddram (a.toNat % 128) = some k ∧
      u.trace = t.trace ++ (.rs true :: evs) ∧ u.settled

/-- R56 to R61, R131, R132, R134: from a settled state no operation but a clear, a character write, a raw instruction or a print
changes a cell of the display RAM. -/
def Obligations.OnlyWritesAndClearStore : Prop :=
  ∀ (s t : State) (i : Instr), s.settled → exec i s = .next t →
    i ≠ .clearDisplay → i ≠ .wClearDisplay → (∀ k, i ≠ .writeCharacter k) → (∀ k, i ≠ .wWriteCharacter k) →
    (∀ rs v, i ≠ .executeInstruction rs v) → (∀ x, i ≠ .printString x) →
    ∀ a, Memory.read t.ctl.ddram a = Memory.read s.ctl.ddram a
end

