-- ==== Sys2Proof/Laws/Encoding.lean ====
section
/-! SUPPORT. The operands of a call: each reader undoes its writer, and the other way. -/

namespace Sys2Proof

@[simp] theorem readBool_b2i (b : Bool) : readBool (b2i b) = some b := by cases b <;> decide

theorem readBool_eq_some {x : Byte} {b : Bool} : readBool x = some b ↔ x = b2i b := by
  constructor
  · intro h
    unfold readBool at h
    split at h
    · simp_all [b2i]
    · split at h <;> simp_all [b2i]
  · rintro rfl; exact readBool_b2i b

theorem readDir_eq_some {x : Byte} {d : BusDir} : readDir x = some d ↔ x = dirByte d := by
  cases d <;> simp [readDir, readBool_eq_some, dirByte, b2i]

theorem readLines_eq_some {x : Byte} {n : LineCount} : readLines x = some n ↔ x = linesByte n := by
  cases n <;> simp [readLines, readBool_eq_some, linesByte, b2i]

@[simp] theorem readDir_dirByte (d : BusDir) : readDir (dirByte d) = some d := readDir_eq_some.mpr rfl
@[simp] theorem readLines_linesByte (n : LineCount) : readLines (linesByte n) = some n := readLines_eq_some.mpr rfl

/-- A wire call is decoded as its word. -/
theorem decode_wireCall (rs rw : Bool) (v : Byte) :
    decode (wireCall rs rw v) =
      match decodeWire (wireWord rs rw v) with
      | some i => .ok i
      | none => .error .neverEmitted := by
  cases rs <;> cases rw <;> rfl

/-- A call of format H with operand bytes alone and a used selector is decoded as its operation. -/
theorem decode_hostCall {k : Nat} {args : List Byte} {i : Instr} (hk : k < 0x17) (h : decodeBytes k args = some i) :
    decode (hostCall (BitVec.ofNat 8 k) args) = .ok i := by
  have hn : (BitVec.ofNat 8 k).toNat = k := by rw [BitVec.toNat_ofNat]; omega
  simp only [decode, hostCall, decodeOperation, hn, hk, if_true, h]

/-- A cursor call is decoded with both its integers, whatever they are. -/
theorem decode_cursorCall (row column : Int) :
    decode { format := .h, bytes := [0x16], ints := [row, column] } = .ok (.setCursorLocation row column) := rfl

end Sys2Proof
end

