-- ==== Sys2Proof/Laws/Ops.lean ====
section
/-! SUPPORT. One lemma for each shared operation: running steps in order, the gap in which the controller moves, one poll. -/

namespace Sys2Proof.Machine

@[simp] theorem andThen_next (s : State) (k : State → Result) : andThen (.next s) k = k s := rfl
@[simp] theorem andThen_fault (f : Fault) (k : State → Result) : andThen (.fault f) k = .fault f := rfl
@[simp] theorem andThen_refused (q : Refusal) (k : State → Result) : andThen (.refused q) k = .refused q := rfl
@[simp] theorem runAll_nil (s : State) : runAll [] s = .next s := rfl
@[simp] theorem runAll_cons (f : State → Result) (fs : List (State → Result)) (s : State) :
    runAll (f :: fs) s = andThen (f s) (runAll fs) := rfl

theorem andThen_eq_next {r : Result} {k : State → Result} {t : State} (h : andThen r k = .next t) :
    ∃ s, r = .next s ∧ k s = .next t := by
  cases r with
  | next s => exact ⟨s, rfl, h⟩
  | fault f => simp at h
  | refused q => simp at h

/-- Nothing is pending: the gap does nothing. -/
theorem ctlGap_idle {s : State} (h : s.ctl.pend = .none) : ctlGap s = .next s := by
  unfold ctlGap; simp [h]

/-- The count has run down: the controller completes. -/
theorem ctlGap_now {s : State} (h : s.ctl.pend ≠ .none) (hd : s.env.due = some 0) : ctlGap s = ctlComplete s := by
  unfold ctlGap; cases hp : s.ctl.pend <;> simp_all

/-- The count runs down by one. -/
theorem ctlGap_count {s : State} {n : Nat} (h : s.ctl.pend ≠ .none) (hd : s.env.due = some (n + 1)) :
    ctlGap s = .next { s with env := { s.env with due := some n } } := by
  unfold ctlGap; cases hp : s.ctl.pend <;> simp_all

/-- The controller never completes: the gap does nothing. -/
theorem ctlGap_never {s : State} (hd : s.env.due = none) : ctlGap s = .next s := by
  unfold ctlGap; cases hp : s.ctl.pend <;> simp_all

/-- Everything a gap can change: the controller, its count, and the number of draws. -/
theorem ctlGap_frame {s u : State} (h : ctlGap s = .next u) :
    u = { s with ctl := u.ctl, env := { s.env with due := u.env.due }, draws := u.draws } := by
  unfold ctlGap at h
  split at h
  · cases h; rfl
  · cases h; rfl
  · unfold ctlComplete at h
    split at h
    · cases h; rfl
    · cases h; rfl
    · split at h <;> cases h; rfl
  · cases h; rfl

/-- A call the block accepts is run. -/
theorem call_accepts {s : State} (h : s.accepts) (k : State → Result) : call k s = k s.entered := by
  simp [call, h.1, h.2, State.entered]

theorem callFirst_accepts {s : State} (hi : s.seq = .idle) (hl : s.life = .unconfigured) (k : State → Result) :
    callFirst k s = k s.entered := by
  simp [callFirst, hi, hl, State.entered]

/-- Only a call the block accepts answers a next state. -/
theorem call_eq_next {k : State → Result} {s t : State} (h : call k s = .next t) : s.accepts ∧ k s.entered = .next t := by
  unfold call at h
  split at h
  · cases h
  · split at h
    · cases h
    · exact ⟨⟨by simp_all, by simp_all⟩, h⟩

theorem callFirst_eq_next {k : State → Result} {s t : State} (h : callFirst k s = .next t) :
    s.seq = .idle ∧ s.life = .unconfigured ∧ k s.entered = .next t := by
  unfold callFirst at h
  split at h
  · cases h
  · split at h
    · cases h
    · exact ⟨by simp_all, by simp_all, h⟩

/-- A completion that answers at all: the pending word's effect is `c`, a function of the draw number, and it draws `inc`. -/
def Completes (C : Ctl) (cfg : Config) (c : Nat → Ctl) (inc : Nat) : Prop :=
  C.pend ≠ .none ∧ C.bf = true ∧ (∀ n, (c n).pend = .none ∧ (c n).bf = false) ∧
  ∀ s : State, s.ctl = C → s.cfg = cfg →
    ctlComplete s = .next { s with ctl := c s.draws, env := { s.env with due := none }, draws := s.draws + inc }

/-- One poll of an idle controller. -/
theorem pollBusy_idle {s : State} (hq : s.pins.quiescent) (hp : s.ctl.pend = .none) :
    pollBusy s = .next { s with
      sample := some (statusByte s.ctl.bf s.draws), draws := s.draws + 1
      trace := s.trace ++ pollEvents (statusByte s.ctl.bf s.draws) } := by
  obtain ⟨cfg, life, ⟨rs, rw, e, aux, cd, dir, dout⟩, sa, ib, seq, tr, ctl, env, dr, ca, ret⟩ := s
  obtain ⟨h1, h2, h3, h4⟩ := hq
  simp only at h1 h2 h3 h4 hp
  subst h1 h2 h3 h4
  simp [pollBusy, setRegisterSelect, setReadWrite, setEnable, putRs, putRw, delay, takeSample, ctlGap_idle, hp, enableEdge,
    State.log, lineLevel, Pins.ctlDrives, pollEvents]

/-- One poll of a controller that never completes. -/
theorem pollBusy_never {s : State} (hq : s.pins.quiescent) (hd : s.env.due = none) :
    pollBusy s = .next { s with
      sample := some (statusByte s.ctl.bf s.draws), draws := s.draws + 1
      trace := s.trace ++ pollEvents (statusByte s.ctl.bf s.draws) } := by
  obtain ⟨cfg, life, ⟨rs, rw, e, aux, cd, dir, dout⟩, sa, ib, seq, tr, ctl, env, dr, ca, ret⟩ := s
  obtain ⟨h1, h2, h3, h4⟩ := hq
  simp only at h1 h2 h3 h4 hd
  subst h1 h2 h3 h4
  simp [pollBusy, setRegisterSelect, setReadWrite, setEnable, putRs, putRw, delay, takeSample, ctlGap_never, hd, enableEdge,
    State.log, lineLevel, Pins.ctlDrives, pollEvents]

end Sys2Proof.Machine
end

