-- ==== Sys2Proof/Laws/Wait.lean ====
section
/-! SUPPORT. The busy-wait of spec/41_instruction_layer.md R122: with a controller that completes it ends, after some number of busy
polls. -/

namespace Sys2Proof.Machine

@[simp] theorem busy_statusByte (bf : Bool) (n : Nat) : busy (statusByte bf n) = bf := by
  simp only [busy, statusByte]
  rw [BitVec.getLsbD_append]
  simp

/-- The wait of an idle controller: one poll, and `k`. -/
theorem busyWait_idle {s : State} (stack : List Frame) (k : State → Result) (fuel n : Nat)
    (hq : s.pins.quiescent) (hp : s.ctl.pend = .none) (hb : s.ctl.bf = false) :
    busyWait stack k (fuel + 1) n s = k { s with
      sample := none, draws := s.draws + 1
      trace := s.trace ++ pollEvents (statusByte false s.draws) } := by
  simp [busyWait, pollBusy_idle hq hp, State.busyResult, hb]

/-- The five gaps before a sample: with `due` below five the controller completes before the poll sees it. -/
theorem pollBusy_completes {C : Ctl} {cfg : Config} {c : Nat → Ctl} {inc : Nat} (hc : Completes C cfg c inc) {d : Nat}
    {s : State} (hd : d < 5) (hq : s.pins.quiescent) (hC : s.ctl = C) (hcfg : s.cfg = cfg) (hdue : s.env.due = some d) :
    pollBusy s = .next { s with
      sample := some (statusByte false (s.draws + inc)), draws := s.draws + inc + 1
      ctl := c s.draws, env := { s.env with due := none }
      trace := s.trace ++ pollEvents (statusByte false (s.draws + inc)) } := by
  obtain ⟨cfg', life, ⟨rs, rw, e, aux, cd, dir, dout⟩, sa, ib, seq, tr, ctl, ⟨ok, due, lat, la⟩, dr, ca, ret⟩ := s
  obtain ⟨h1, h2, h3, h4⟩ := hq
  obtain ⟨hp, hbf, hcn, hcomp⟩ := hc
  simp only at h1 h2 h3 h4 hC hcfg hdue
  subst h1 h2 h3 h4 hC hcfg hdue
  have hpn : ∀ n, (c n).pend = .none := fun n => (hcn n).1
  have hbn : ∀ n, (c n).bf = false := fun n => (hcn n).2
  have hd' : d = 0 ∨ d = 1 ∨ d = 2 ∨ d = 3 ∨ d = 4 := by omega
  rcases hd' with rfl | rfl | rfl | rfl | rfl <;>
    simp [pollBusy, setRegisterSelect, setReadWrite, setEnable, putRs, putRw, delay, takeSample, ctlGap_idle, ctlGap_now,
      ctlGap_count, hcomp, hp, hpn, hbn, enableEdge, State.log, lineLevel, Pins.ctlDrives, pollEvents]

/-- A poll and the sleep after it, with the completion not before the sample. -/
theorem pollBusy_busy {C : Ctl} {cfg : Config} {c : Nat → Ctl} {inc : Nat} (hc : Completes C cfg c inc) {d : Nat}
    {s : State} (hq : s.pins.quiescent) (hC : s.ctl = C) (hcfg : s.cfg = cfg)
    (hdue : s.env.due = some (d + 7)) :
    ∃ t, pollBusy s = .next t ∧ t.sample = some (statusByte true s.draws) ∧ t.cfg = s.cfg ∧
      delay .poll { t with sample := none } = .next { s with
        sample := none, draws := s.draws + 1, env := { s.env with due := some d }
        trace := s.trace ++ pollEvents (statusByte true s.draws) ++ [.delay .poll] } := by
  obtain ⟨cfg', life, ⟨rs, rw, e, aux, cd, dir, dout⟩, sa, ib, seq, tr, ctl, ⟨ok, due, lat, la⟩, dr, ca, ret⟩ := s
  obtain ⟨h1, h2, h3, h4⟩ := hq
  obtain ⟨hp, hbf, hcn, hcomp⟩ := hc
  simp only at h1 h2 h3 h4 hC hcfg hdue
  subst h1 h2 h3 h4 hC hcfg hdue
  simp [pollBusy, setRegisterSelect, setReadWrite, setEnable, putRs, putRw, delay, takeSample, ctlGap_count, hp, hbf,
    enableEdge, State.log, lineLevel, Pins.ctlDrives, pollEvents]

/-- A poll that sees busy and the sleep after it, with the completion between the sample and the end of the sleep. -/
theorem pollBusy_late {C : Ctl} {cfg : Config} {c : Nat → Ctl} {inc : Nat} (hc : Completes C cfg c inc) {d : Nat}
    {s : State} (hd : d = 5 ∨ d = 6) (hq : s.pins.quiescent) (hC : s.ctl = C) (hcfg : s.cfg = cfg)
    (hdue : s.env.due = some d) :
    ∃ t, pollBusy s = .next t ∧ t.sample = some (statusByte true s.draws) ∧ t.cfg = s.cfg ∧
      delay .poll { t with sample := none } = .next { s with
        sample := none, draws := s.draws + 1 + inc, env := { s.env with due := none }, ctl := c (s.draws + 1)
        trace := s.trace ++ pollEvents (statusByte true s.draws) ++ [.delay .poll] } := by
  obtain ⟨cfg', life, ⟨rs, rw, e, aux, cd, dir, dout⟩, sa, ib, seq, tr, ctl, ⟨ok, due, lat, la⟩, dr, ca, ret⟩ := s
  obtain ⟨h1, h2, h3, h4⟩ := hq
  obtain ⟨hp, hbf, hcn, hcomp⟩ := hc
  simp only at h1 h2 h3 h4 hC hcfg hdue
  subst h1 h2 h3 h4 hC hcfg hdue
  have hpn : ∀ n, (c n).pend = .none := fun n => (hcn n).1
  rcases hd with rfl | rfl <;>
    simp [pollBusy, setRegisterSelect, setReadWrite, setEnable, putRs, putRw, delay, takeSample, ctlGap_idle, ctlGap_now,
      ctlGap_count, hcomp, hp, hbf, hpn, enableEdge, State.log, lineLevel, Pins.ctlDrives, pollEvents]

/-- With a controller that completes, the reference busy-wait ends. -/
theorem busyWait_completes {C : Ctl} {cfg : Config} {c : Nat → Ctl} {inc : Nat} (hc : Completes C cfg c inc)
    (hlim : cfg.pollLimit = none) (stack : List Frame) (k : State → Result) :
    ∀ (d fuel n : Nat) (s : State), d < fuel → s.pins.quiescent → s.ctl = C → s.cfg = cfg → s.env.due = some d →
      ∃ j, busyWait stack k fuel n s = k (s.waited j inc (c (s.draws + j))) := by
  intro d
  induction d using Nat.strongRecOn with
  | ind d ih =>
    intro fuel n s hf hq hC hcfg hdue
    obtain ⟨fuel, rfl⟩ : ∃ f, fuel = f + 1 := ⟨fuel - 1, by omega⟩
    have hlimit : ∀ {t : State} {m : Nat}, t.cfg = s.cfg → limitReached t.cfg m = false :=
      fun h => by simp [limitReached, h, hcfg, hlim]
    by_cases h5 : d < 5
    · refine ⟨0, ?_⟩
      simp [busyWait, pollBusy_completes hc h5 hq hC hcfg hdue, State.busyResult, State.waited, busyRounds]
    · by_cases h7 : d < 7
      · obtain ⟨t, h1, h2, h3, h4⟩ := pollBusy_late hc (by omega) hq hC hcfg hdue
        obtain ⟨f, rfl⟩ : ∃ f, fuel = f + 1 := ⟨fuel - 1, by omega⟩
        refine ⟨1, ?_⟩
        rw [busyWait, h1]
        simp only [andThen_next, State.busyResult, h2, busy_statusByte, if_true, hlimit h3, Bool.false_eq_true, if_false]
        rw [h4, andThen_next]
        refine (busyWait_idle stack k f (n + 1) ?_ ?_ ?_).trans ?_
        · exact hq
        · exact (hc.2.2.1 _).1
        · exact (hc.2.2.1 _).2
        simp [State.waited, busyRounds, Nat.add_comm, Nat.add_left_comm]
      · obtain ⟨d', rfl⟩ : ∃ d', d = d' + 7 := ⟨d - 7, by omega⟩
        obtain ⟨t, h1, h2, h3, h4⟩ := pollBusy_busy hc hq hC hcfg hdue
        rw [busyWait, h1]
        simp only [andThen_next, State.busyResult, h2, busy_statusByte, if_true, hlimit h3, Bool.false_eq_true, if_false]
        rw [h4, andThen_next]
        obtain ⟨j, hj⟩ := ih d' (by omega) fuel (n + 1)
          { s with
            sample := none, draws := s.draws + 1, env := { s.env with due := some d' }
            trace := s.trace ++ pollEvents (statusByte true s.draws) ++ [.delay .poll] }
          (by omega) hq hC hcfg rfl
        refine ⟨j + 1, ?_⟩
        rw [hj]
        simp [State.waited, busyRounds, Nat.add_comm, Nat.add_left_comm]

/-- One round of the busy-wait on a controller that never completes. -/
theorem busyWait_never {s : State} (stack : List Frame) (k : State → Result) (fuel n : Nat) (hq : s.pins.quiescent)
    (hd : s.env.due = none) (hb : s.ctl.bf = true) :
    busyWait stack k (fuel + 1) n s =
      if limitReached s.cfg (n + 1) then
        .next (raise .controllerUnresponsive { s with
          sample := some (statusByte true s.draws), draws := s.draws + 1
          trace := s.trace ++ pollEvents (statusByte true s.draws) })
      else
        busyWait stack k fuel (n + 1) { s with
          sample := none, draws := s.draws + 1
          trace := s.trace ++ pollEvents (statusByte true s.draws) ++ [.delay .poll] } := by
  rw [busyWait, pollBusy_never hq hd]
  simp only [andThen_next, State.busyResult, busy_statusByte, hb, if_true, delay, State.log]
  split
  · rfl
  · rw [ctlGap_never (by exact hd)]; rfl

/-- One poll of a busy controller that completes, if ever, only after the poll. -/
theorem pollBusy_pending {s : State} (hq : s.pins.quiescent) (hp : s.ctl.pend ≠ .none) (hb : s.ctl.bf = true)
    (hd : lateFor 6 s.env.due) :
    pollBusy s = .next { s with
      sample := some (statusByte true s.draws), draws := s.draws + 1
      env := { s.env with due := s.env.due.map (· - 6) }, trace := s.trace ++ pollEvents (statusByte true s.draws) } := by
  cases hdue : s.env.due with
  | none =>
    have he : s.env = { s.env with due := none } := by rw [← hdue]
    rw [pollBusy_never hq hdue, hb, Option.map_none, ← he]
  | some d =>
    obtain ⟨d, rfl⟩ : ∃ e, d = e + 6 := ⟨d - 6, by have := hd d hdue; omega⟩
    obtain ⟨cfg', life, ⟨rs, rw, e, aux, cd, dir, dout⟩, sa, ib, seq, tr, ctl, ⟨ok, due, lat, la⟩, dr, ca, ret⟩ := s
    obtain ⟨h1, h2, h3, h4⟩ := hq
    simp only at h1 h2 h3 h4 hp hb hdue
    subst h1 h2 h3 h4 hdue
    simp [pollBusy, setRegisterSelect, setReadWrite, setEnable, putRs, putRw, delay, takeSample, ctlGap_count, hp, hb,
      enableEdge, State.log, lineLevel, Pins.ctlDrives, pollEvents]

/-- One round of the busy-wait on a busy controller that completes, if ever, only after the round, with POLL_LIMIT not reached. -/
theorem busyWait_pending {s : State} (stack : List Frame) (k : State → Result) (fuel n : Nat) (hq : s.pins.quiescent)
    (hp : s.ctl.pend ≠ .none) (hb : s.ctl.bf = true) (hd : lateFor 7 s.env.due) (hl : limitReached s.cfg (n + 1) = false) :
    busyWait stack k (fuel + 1) n s =
      busyWait stack k fuel (n + 1) { s with
        sample := none, draws := s.draws + 1, env := { s.env with due := s.env.due.map (· - 7) }
        trace := s.trace ++ pollEvents (statusByte true s.draws) ++ [.delay .poll] } := by
  rw [busyWait, pollBusy_pending hq hp hb fun d h => by have := hd d h; omega]
  simp only [andThen_next, State.busyResult, busy_statusByte, if_true, hl, Bool.false_eq_true, if_false, delay]
  cases hdue : s.env.due with
  | none => rw [ctlGap_never rfl]; rfl
  | some d =>
    obtain ⟨d, rfl⟩ : ∃ e, d = e + 7 := ⟨d - 7, by have := hd d hdue; omega⟩
    rw [ctlGap_count (n := d) (by exact hp) (by simp)]
    rfl

/-- A busy-wait whose `m + 1` polls up to POLL_LIMIT all see busy raises ControllerUnresponsive. -/
theorem busyWait_gives_up (m : Nat) (stack : List Frame) (k : State → Result) :
    ∀ (s : State) (fuel n : Nat), m < fuel → s.pins.quiescent → s.ctl.pend ≠ .none → s.ctl.bf = true →
      lateFor (7 * m + 6) s.env.due → (∀ i, i < m → limitReached s.cfg (n + i + 1) = false) →
      limitReached s.cfg (n + m + 1) = true →
      busyWait stack k fuel n s = .next (raise .controllerUnresponsive { s with
        draws := s.draws + m + 1, env := { s.env with due := s.env.due.map (· - (7 * m + 6)) }
        trace := s.trace ++ busyRounds m s.draws ++ pollEvents (statusByte true (s.draws + m)) }) := by
  induction m with
  | zero =>
    intro s fuel n hf hq hp hb hd _ hl
    obtain ⟨fuel, rfl⟩ : ∃ f, fuel = f + 1 := ⟨fuel - 1, by omega⟩
    rw [busyWait, pollBusy_pending hq hp hb hd]
    simp [State.busyResult, busy_statusByte, hl, raise, finish, busyRounds]
  | succ m ih =>
    intro s fuel n hf hq hp hb hd hn hl
    obtain ⟨fuel, rfl⟩ : ∃ f, fuel = f + 1 := ⟨fuel - 1, by omega⟩
    rw [busyWait_pending stack k fuel n hq hp hb (fun d h => by have := hd d h; omega) (hn 0 (by omega))]
    refine (ih _ fuel (n + 1) (by omega) (by exact hq) (by exact hp) (by exact hb) ?_ ?_ ?_).trans ?_
    · intro d h
      simp only [Option.map_eq_some_iff] at h
      obtain ⟨e, he, rfl⟩ := h
      have := hd e he
      omega
    · intro i hi
      have := hn (i + 1) (by omega)
      rwa [show n + 1 + i + 1 = n + (i + 1) + 1 by omega]
    · rwa [show n + 1 + m + 1 = n + (m + 1) + 1 by omega]
    · simp [busyRounds, raise, finish, Option.map_map, Function.comp_def, Nat.sub_sub, Nat.mul_add,
        Nat.add_comm, Nat.add_left_comm]

end Sys2Proof.Machine
end

