-- ==== Sys2Proof/Laws/Instruction.lean ====
section
/-! SUPPORT. "execute one instruction" (spec/41_instruction_layer.md R120) in closed form, for a controller that completes the word:
what the bus, TRACE and the controller are when the operation returns. -/

namespace Sys2Proof.Machine

/-- The controller with a word latched and not yet finished. -/
def Ctl.latched (c : Ctl) (rs : Bool) (v : Byte) : Ctl := { c with bf := true, pend := .word rs v }

/-- An effect reads and writes neither BF nor PEND. -/
theorem ctlEffect_latched (cfg : Config) (n : Nat) (rs : Bool) (v : Byte) (C : Ctl) (rs' : Bool) (v' : Byte) :
    ctlEffect cfg n rs v (C.latched rs' v') = (ctlEffect cfg n rs v C).map fun c => c.latched rs' v' := by
  unfold ctlEffect
  cases latchedCommand rs v with
  | shift sc rl => cases sc <;> rfl
  | functionSet dl n f => cases dl <;> rfl
  | clearDisplay | returnHome | entryModeSet | displayControl | setDdramAddress | character | noCommand | unspecified => rfl

/-- A word whose effect is not a fault completes. -/
theorem completes_word {cfg : Config} {rs : Bool} {v : Byte} {C : Ctl} {e : Nat → Ctl}
    (he : ∀ n, ctlEffect cfg n rs v C = .ok (e n)) :
    Completes (C.latched rs v) cfg (fun n => ctlDone (e n)) (effectDraws rs v) := by
  refine ⟨by simp [Ctl.latched], rfl, fun n => ⟨rfl, rfl⟩, fun s hC hcfg => ?_⟩
  have hp : s.ctl.pend = .word rs v := by rw [hC]; rfl
  unfold ctlComplete
  rw [hp]
  simp only [hC, hcfg, ctlEffect_latched, he, Except.map]
  rfl

/-- The power-on pseudo-instruction completes. -/
theorem completes_powerOn (cfg : Config) {C : Ctl} (hp : C.pend = .powerOn) (hb : C.bf = true) :
    Completes C cfg (fun n => ctlDone (ctlAnyEffect n C)) 1 := by
  refine ⟨by simp [hp], hb, fun n => ⟨rfl, rfl⟩, fun s hC hcfg => ?_⟩
  have hp' : s.ctl.pend = .powerOn := by rw [hC]; exact hp
  unfold ctlComplete
  rw [hp']
  simp only [hC]

/-- After X4c: the word is latched, and three gaps follow before the busy-wait. -/
def State.wroteWord (s : State) (rs : Bool) (v : Byte) : State :=
  { s with
    pins := { s.pins with rs := false, rw := true, e := false, dir := .input, dout := v }
    draws := s.draws + 1
    trace := s.trace ++ writeEvents rs v
    ctl := s.ctl.latched rs v
    env := { s.env with due := s.env.next, latencies := s.env.latencies.tail } }

/-- Steps 1 to 5 on a quiescent bus with an idle controller, with the completion not before the busy-wait. -/
theorem writeSequence_pending {s : State} {rs : Bool} {v : Byte} {d : Nat} (hq : s.pins.quiescent)
    (hp : s.ctl.pend = .none) (hb : s.ctl.bf = false) (hd : s.env.next = some (d + 3)) :
    runAll (writeSequence rs v) s =
      .next { s.wroteWord rs v with env := { (s.wroteWord rs v).env with due := some d } } := by
  obtain ⟨cfg', life, ⟨rs', rw, e, aux, cd, dir, dout⟩, sa, ib, seq, tr, ctl, env, dr, ca, ret⟩ := s
  obtain ⟨h1, h2, h3, h4⟩ := hq
  simp only at h1 h2 h3 h4 hp hb hd
  subst h1 h2 h3 h4
  simp [writeSequence, setRegisterSelect, setReadWrite, setBusDirection, writeByte, setEnable, putRs, putRw, putDir, putData,
    switched, delay, ctlGap_idle, ctlGap_count, hp, hb, hd, enableEdge, ctlLatch, State.log, State.wroteWord, Ctl.latched,
    writeEvents]

/-- Steps 1 to 5 on a quiescent bus with an idle controller that never completes. -/
theorem writeSequence_hung {s : State} {rs : Bool} {v : Byte} (hq : s.pins.quiescent)
    (hp : s.ctl.pend = .none) (hb : s.ctl.bf = false) (hd : s.env.next = none) :
    runAll (writeSequence rs v) s = .next (s.wroteWord rs v) := by
  obtain ⟨cfg', life, ⟨rs', rw, e, aux, cd, dir, dout⟩, sa, ib, seq, tr, ctl, env, dr, ca, ret⟩ := s
  obtain ⟨h1, h2, h3, h4⟩ := hq
  simp only at h1 h2 h3 h4 hp hb hd
  subst h1 h2 h3 h4
  simp [writeSequence, setRegisterSelect, setReadWrite, setBusDirection, writeByte, setEnable, putRs, putRw, putDir, putData,
    switched, delay, ctlGap_idle, ctlGap_never, hp, hb, hd, enableEdge, ctlLatch, State.log, State.wroteWord, Ctl.latched,
    writeEvents]

/-- Steps 1 to 5 with the completion in one of the three gaps after the pulse. -/
theorem writeSequence_completes {s : State} {rs : Bool} {v : Byte} {d : Nat} {c : Nat → Ctl} {inc : Nat}
    (hc : Completes (s.ctl.latched rs v) s.cfg c inc) (hd3 : d < 3) (hq : s.pins.quiescent)
    (hp : s.ctl.pend = .none) (hb : s.ctl.bf = false) (hd : s.env.next = some d) :
    runAll (writeSequence rs v) s =
      .next { s.wroteWord rs v with
        env := { (s.wroteWord rs v).env with due := none }, ctl := c (s.draws + 1), draws := s.draws + 1 + inc } := by
  obtain ⟨cfg', life, ⟨rs', rw, e, aux, cd, dir, dout⟩, sa, ib, seq, tr, ctl, env, dr, ca, ret⟩ := s
  obtain ⟨h1, h2, h3, h4⟩ := hq
  obtain ⟨-, -, hcn, hcomp⟩ := hc
  simp only at h1 h2 h3 h4 hp hb hd
  subst h1 h2 h3 h4
  simp only [Ctl.latched] at hcomp
  have hpn : ∀ n, (c n).pend = .none := fun n => (hcn n).1
  have hd' : d = 0 ∨ d = 1 ∨ d = 2 := by omega
  rcases hd' with rfl | rfl | rfl <;>
  simp [writeSequence, setRegisterSelect, setReadWrite, setBusDirection, writeByte, setEnable, putRs, putRw, putDir, putData,
    switched, delay, ctlGap_idle, ctlGap_count, ctlGap_now, hp, hb, hd, hpn, hcomp, enableEdge, ctlLatch, State.log,
    State.wroteWord, writeEvents]

/-- R120 with a controller that completes the word in one of the three gaps after the pulse: the busy-wait makes one poll. -/
theorem executeJob_prompt {s : State} {j : Job} {d : Nat} {e : Nat → Ctl} (k : State → Result)
    (he : ∀ n, ctlEffect s.cfg n j.rs j.byte s.ctl = .ok (e n)) (hd3 : d < 3) (hq : s.pins.quiescent)
    (hp : s.ctl.pend = .none) (hb : s.ctl.bf = false) (hd : s.env.next = some d) :
    executeJob j k s = k (s.executed j.rs j.byte 0 (effectDraws j.rs j.byte) (ctlDone (e (s.draws + 1)))) := by
  have hc := completes_word (cfg := s.cfg) (rs := j.rs) (v := j.byte) (C := s.ctl) he
  unfold executeJob
  rw [writeSequence_completes (s := { s with ibyte := some j.byte }) hc hd3 hq hp hb hd]
  simp only [andThen_next]
  refine (busyWait_idle _ _ _ _ ?_ ?_ ?_).trans ?_
  · exact ⟨rfl, rfl, rfl, rfl⟩
  · rfl
  · rfl
  · simp [State.executed, State.wroteWord, busyRounds]

/-- R120 with a controller that completes the word, in the reference design (POLL_LIMIT none). -/
theorem executeJob_completes {s : State} {j : Job} {d : Nat} {e : Nat → Ctl} (k : State → Result)
    (he : ∀ n, ctlEffect s.cfg n j.rs j.byte s.ctl = .ok (e n)) (hlim : s.cfg.pollLimit = none) (hq : s.pins.quiescent)
    (hp : s.ctl.pend = .none) (hb : s.ctl.bf = false) (hd : s.env.next = some d) :
    ∃ p, executeJob j k s =
      k (s.executed j.rs j.byte p (effectDraws j.rs j.byte) (ctlDone (e (s.draws + 1 + p)))) := by
  have hc := completes_word (cfg := s.cfg) (rs := j.rs) (v := j.byte) (C := s.ctl) he
  by_cases h3 : d < 3
  · exact ⟨0, executeJob_prompt k he h3 hq hp hb hd⟩
  · obtain ⟨d', rfl⟩ : ∃ d', d = d' + 3 := ⟨d - 3, by omega⟩
    unfold executeJob
    rw [writeSequence_pending (s := { s with ibyte := some j.byte }) hq hp hb hd]
    simp only [andThen_next]
    obtain ⟨p, hp'⟩ := busyWait_completes hc hlim (.executeInstruction j.rs j.byte :: j.parents)
      (fun s => k { s with ibyte := none }) d' (d' + s.cfg.pollLimit.getD 0 + 1) 0
      { State.wroteWord { s with ibyte := some j.byte } j.rs j.byte with
        env := { (State.wroteWord { s with ibyte := some j.byte } j.rs j.byte).env with due := some d' } }
      (by omega) ⟨rfl, rfl, rfl, rfl⟩ rfl rfl rfl
    refine ⟨p, Eq.trans ?_ (hp'.trans ?_)⟩
    · rfl
    · simp [State.executed, State.wroteWord, State.waited]

end Sys2Proof.Machine
end

