-- ==== Sys2Proof/Laws/FaultingWord.lean ====
section
/-! SUPPORT. "execute one instruction" (spec/41_instruction_layer.md R120) with a word whose completion faults (spec/60_exceptions.md R184):
wherever in the sequence the controller completes, the operation faults. -/

namespace Sys2Proof.Machine

/-- A completion that faults. -/
def FaultsAtCompletion (C : Ctl) (cfg : Config) (f : Fault) : Prop :=
  C.pend ≠ .none ∧ C.bf = true ∧ ∀ s : State, s.ctl = C → s.cfg = cfg → ctlComplete s = .fault f

/-- One round of the busy-wait in which the controller does not get to its completion. -/
theorem busyWait_round {s : State} (stack : List Frame) (k : State → Result) (fuel n d : Nat) (hp : s.ctl.pend ≠ .none)
    (hb : s.ctl.bf = true) (hq : s.pins.quiescent) (hlim : s.cfg.pollLimit = none) (hdue : s.env.due = some (d + 7)) :
    busyWait stack k (fuel + 1) n s = busyWait stack k fuel (n + 1) { s with
        sample := none, draws := s.draws + 1, env := { s.env with due := some d }
        trace := s.trace ++ pollEvents (statusByte true s.draws) ++ [.delay .poll] } := by
  obtain ⟨cfg', life, ⟨rs, rw, e, aux, cd, dir, dout⟩, sa, ib, seq, tr, ctl, ⟨ok, due, lat, la⟩, dr, ca, ret⟩ := s
  obtain ⟨h1, h2, h3, h4⟩ := hq
  simp only at h1 h2 h3 h4 hp hb hlim hdue
  subst h1 h2 h3 h4 hdue
  simp [busyWait, pollBusy, setRegisterSelect, setReadWrite, setEnable, putRs, putRw, delay, takeSample, ctlGap_count, hp, hb,
    enableEdge, State.log, lineLevel, Pins.ctlDrives, pollEvents, State.busyResult, limitReached, hlim]

/-- A busy-wait in which the pending word's completion faults. -/
theorem busyWait_faults {C : Ctl} {cfg : Config} {f : Fault} (hc : FaultsAtCompletion C cfg f) (hlim : cfg.pollLimit = none)
    (stack : List Frame) (k : State → Result) :
    ∀ (d fuel n : Nat) (s : State), d < fuel → s.pins.quiescent → s.ctl = C → s.cfg = cfg → s.env.due = some d →
      busyWait stack k fuel n s = .fault f := by
  intro d
  induction d using Nat.strongRecOn with
  | ind d ih =>
    intro fuel n s hf hq hC hcfg hdue
    obtain ⟨fuel, rfl⟩ : ∃ f, fuel = f + 1 := ⟨fuel - 1, by omega⟩
    have hp : s.ctl.pend ≠ .none := by rw [hC]; exact hc.1
    have hb : s.ctl.bf = true := by rw [hC]; exact hc.2.1
    by_cases h7 : d < 7
    · obtain ⟨cfg', life, ⟨rs, rw, e, aux, cd, dir, dout⟩, sa, ib, seq, tr, ctl, ⟨ok, due, lat, la⟩, dr, ca, ret⟩ := s
      obtain ⟨h1, h2, h3, h4⟩ := hq
      simp only at h1 h2 h3 h4 hC hcfg hdue hp hb
      subst h1 h2 h3 h4 hC hcfg hdue
      have hcomp := hc.2.2
      have hd' : d = 0 ∨ d = 1 ∨ d = 2 ∨ d = 3 ∨ d = 4 ∨ d = 5 ∨ d = 6 := by omega
      rcases hd' with rfl | rfl | rfl | rfl | rfl | rfl | rfl <;>
        simp [busyWait, pollBusy, setRegisterSelect, setReadWrite, setEnable, putRs, putRw, delay, takeSample, ctlGap_now,
          ctlGap_count, hcomp, hp, hb, enableEdge, State.log, lineLevel, Pins.ctlDrives, State.busyResult, limitReached, hlim]
    · obtain ⟨d', rfl⟩ : ∃ d', d = d' + 7 := ⟨d - 7, by omega⟩
      rw [busyWait_round stack k fuel n d' hp hb hq (by rw [hcfg]; exact hlim) hdue]
      exact ih d' (by omega) fuel (n + 1) _ (by omega) hq hC hcfg rfl

/-- R120 with a word whose completion faults, and a controller that completes it. -/
theorem executeJob_faults {s : State} {j : Job} {d : Nat} {f : Fault} (k : State → Result)
    (he : ∀ n, ctlEffect s.cfg n j.rs j.byte s.ctl = .error f) (hlim : s.cfg.pollLimit = none) (hq : s.pins.quiescent)
    (hp : s.ctl.pend = .none) (hb : s.ctl.bf = false) (hd : s.env.next = some d) :
    executeJob j k s = .fault f := by
  have hc : FaultsAtCompletion (s.ctl.latched j.rs j.byte) s.cfg f := by
    refine ⟨by simp [Ctl.latched], rfl, fun t hC hcfg => ?_⟩
    have hp : t.ctl.pend = .word j.rs j.byte := by rw [hC]; rfl
    unfold ctlComplete
    rw [hp]
    simp only [hC, hcfg, ctlEffect_latched, he, Except.map]
  by_cases h3 : d < 3
  · have hcomp := hc.2.2
    unfold executeJob
    obtain ⟨cfg', life, ⟨rs', rw, e, aux, cd, dir, dout⟩, sa, ib, seq, tr, ctl, env, dr, ca, ret⟩ := s
    obtain ⟨h1, h2, h3, h4⟩ := hq
    simp only at h1 h2 h3 h4 hp hb hd
    subst h1 h2 h3 h4
    simp only [Ctl.latched] at hcomp
    have hd' : d = 0 ∨ d = 1 ∨ d = 2 := by omega
    rcases hd' with rfl | rfl | rfl <;>
    simp [writeSequence, setRegisterSelect, setReadWrite, setBusDirection, writeByte, setEnable, putRs, putRw, putDir, putData,
      switched, delay, ctlGap_idle, ctlGap_count, ctlGap_now, hp, hb, hd, hcomp, enableEdge, ctlLatch, State.log]
  · obtain ⟨d', rfl⟩ : ∃ d', d = d' + 3 := ⟨d - 3, by omega⟩
    unfold executeJob
    rw [writeSequence_pending (s := { s with ibyte := some j.byte }) hq hp hb hd]
    simp only [andThen_next]
    refine busyWait_faults hc hlim _ _ d' _ 0 _ ?_ ⟨rfl, rfl, rfl, rfl⟩ rfl rfl rfl
    show d' < d' + _ + 1
    omega

end Sys2Proof.Machine
end

