-- ==== Sys2Proof/Laws/Memory.lean ====
section
/-! SUPPORT. The display RAM as a list in canonical form: read after write, and every operation keeps the form. -/

namespace Sys2Proof.Machine

@[simp] theorem Memory.read_nil (a : Nat) : Memory.read [] a = none := rfl

theorem Memory.read_write_same (m : List Host.Cell) (a : Nat) (v : Byte) : Memory.read (Memory.write m a v) a = some v := by
  induction m with
  | nil => simp [Memory.write, Memory.read]
  | cons c m ih =>
    obtain ⟨k, w⟩ := c
    unfold Memory.write
    split
    · simp [Memory.read]
    · split
      · simp [Memory.read]
      · have : k ≠ a := fun h => by simp_all
        simp [Memory.read, this, ih]

theorem Memory.read_write_other (m : List Host.Cell) {a b : Nat} (v : Byte) (h : b ≠ a) :
    Memory.read (Memory.write m a v) b = Memory.read m b := by
  induction m with
  | nil => simp [Memory.write, Memory.read, Ne.symm h]
  | cons c m ih =>
    obtain ⟨k, w⟩ := c
    unfold Memory.write
    split
    · simp [Memory.read, Ne.symm h]
    · split
      · rename_i hk
        subst hk
        simp [Memory.read, Ne.symm h]
      · simp [Memory.read, ih]

theorem Memory.rising_write (m : List Host.Cell) (a : Nat) (v : Byte) (ha : validCell a = true) :
    ∀ lo, (∀ l, lo = some l → l < a) → Memory.rising lo m = true → Memory.rising lo (Memory.write m a v) = true := by
  induction m with
  | nil =>
    intro lo hlo _
    cases lo with
    | none => simp [Memory.write, Memory.rising, ha]
    | some l => simp [Memory.write, Memory.rising, ha, hlo l rfl]
  | cons c m ih =>
    obtain ⟨k, w⟩ := c
    intro lo hlo hm
    unfold Memory.write
    simp only [Memory.rising, Bool.and_eq_true] at hm
    obtain ⟨⟨h1, h2⟩, h3⟩ := hm
    split
    · rename_i hak
      simp only [Memory.rising, Bool.and_eq_true, decide_eq_true_eq]
      refine ⟨⟨?_, ha⟩, ⟨hak, h2⟩, h3⟩
      cases lo with
      | none => rfl
      | some l => simpa using hlo l rfl
    · split
      · rename_i hak
        subst hak
        simp only [Memory.rising, Bool.and_eq_true]
        exact ⟨⟨h1, ha⟩, h3⟩
      · simp only [Memory.rising, Bool.and_eq_true]
        refine ⟨⟨h1, h2⟩, ih (some k) ?_ h3⟩
        intro l hl
        cases hl
        omega

/-- A write to a valid cell keeps the canonical form. -/
theorem Memory.wf_write {m : List Host.Cell} {a : Nat} (v : Byte) (ha : validCell a = true) (hm : Memory.wf m = true) :
    Memory.wf (Memory.write m a v) = true :=
  Memory.rising_write m a v ha none (by simp) hm

theorem Memory.wf_nil : Memory.wf [] = true := rfl

/-- Filling gives the canonical form. -/
theorem Memory.wf_fill (v : Byte) : Memory.wf (Memory.fill v) = true := by
  simp [Memory.wf, Memory.fill, validCells, List.range, List.range.loop, Memory.rising, validCell]

theorem Memory.read_map_fill (v : Byte) (l : List Nat) (a : Nat) :
    Memory.read (l.map fun k => (k, v)) a = if a ∈ l then some v else none := by
  induction l with
  | nil => simp
  | cons k l ih =>
    by_cases h : k = a
    · subst h; simp [Memory.read]
    · simp [Memory.read, h, ih, Ne.symm h]

theorem mem_validCells (a : Nat) : a ∈ validCells ↔ validCell a = true := by
  simp only [validCells, validCell, List.mem_append, List.mem_range, List.mem_map, Bool.or_eq_true, Bool.and_eq_true,
    decide_eq_true_eq]
  constructor
  · rintro (h | ⟨b, h, rfl⟩) <;> omega
  · rintro (h | h)
    · exact .inl h
    · exact .inr ⟨a - 64, by omega, by omega⟩

/-- A filled cell reads as the fill, every other address as nothing. -/
theorem Memory.read_fill (v : Byte) (a : Nat) :
    Memory.read (Memory.fill v) a = if validCell a then some v else none := by
  simp [Memory.fill, Memory.read_map_fill, mem_validCells]

/-- The cell a character write reaches is a valid one. -/
theorem writeCell_valid {a t : Addr} (h : writeCell a = some t) : validCell t.toNat = true := by
  unfold writeCell at h
  split at h
  · cases h; assumption
  · split at h
    · split at h
      · cases h; assumption
      · cases h
    · cases h

/-- Every effect keeps the canonical form. -/
theorem ctlEffect_wf {cfg : Config} {n : Nat} {rs : Bool} {v : Byte} {C c : Ctl} (h : ctlEffect cfg n rs v C = .ok c)
    (hC : Memory.wf C.ddram = true) : Memory.wf c.ddram = true := by
  unfold ctlEffect at h
  split at h
  · cases h; exact Memory.wf_fill _
  · cases h; exact hC
  · cases h; exact hC
  · cases h; exact hC
  · cases h; unfold ctlShift; split <;> exact hC
  · split at h
    · cases h; exact hC
    · cases h
  · cases h; exact hC
  · cases h
    simp only [ctlCharacter]
    split
    · rename_i t ht
      exact Memory.wf_write _ (writeCell_valid ht) hC
    · exact hC
  · cases h
  · cases h; rfl

end Sys2Proof.Machine
end

