-- ==== Sys2Proof/Laws/PerInstr.lean ====
section
/-! SUPPORT. The per-instruction family CallShape: every instruction is spelt in the format of its row of the opcode table, in the
number of bytes and of integers its operands take. -/

namespace Sys2Proof.Laws.CallShape

/-- The format of the instruction's row. -/
def formatOf : Instr → Format
  | .wClearDisplay
  | .wReturnHome
  | .wEntryModeSet _ _
  | .wDisplayControl _ _ _
  | .wCursorOrDisplayShift _ _
  | .wFunctionSet _ _ _
  | .wSetDdramAddress _
  | .wWriteCharacter _
  | .wReadStatus _ => .w
  | .configure
  | .setBusDirection _
  | .writeByte _
  | .readByte
  | .setRegisterSelect _
  | .setReadWrite _
  | .setEnable _
  | .pollBusy
  | .executeInstruction _ _
  | .waitNotBusy
  | .clearDisplay
  | .returnHome
  | .entryModeSet _ _
  | .displayControl _ _ _
  | .cursorOrDisplayShift _ _
  | .functionSet _ _ _
  | .setDdramAddress _
  | .writeCharacter _
  | .setCgramAddress _
  | .readCharacter
  | .initialise _ _ _
  | .printString _
  | .setCursorLocation _ _ => .h

/-- How many bytes its call takes. -/
def sizeOf : Instr → Nat
  | .wClearDisplay | .wReturnHome | .wEntryModeSet _ _ | .wDisplayControl _ _ _ | .wCursorOrDisplayShift _ _
  | .wFunctionSet _ _ _ | .wSetDdramAddress _ | .wWriteCharacter _ | .wReadStatus _ | .setBusDirection _
  | .writeByte _ | .setRegisterSelect _ | .setReadWrite _ | .setEnable _ | .setDdramAddress _
  | .writeCharacter _ | .setCgramAddress _ => 2
  | .configure | .readByte | .pollBusy | .waitNotBusy | .clearDisplay | .returnHome | .readCharacter => 1
  | .executeInstruction _ _ | .entryModeSet _ _ | .cursorOrDisplayShift _ _ => 3
  | .displayControl _ _ _ | .functionSet _ _ _ | .initialise _ _ _ => 4
  | .printString a => a.length + 1
  | .setCursorLocation _ _ => 1

/-- How many integers its call takes. -/
def intsOf : Instr → Nat
  | .setCursorLocation _ _ => 2
  | .wClearDisplay | .wReturnHome | .wEntryModeSet _ _ | .wDisplayControl _ _ _ | .wCursorOrDisplayShift _ _
  | .wFunctionSet _ _ _ | .wSetDdramAddress _ | .wWriteCharacter _ | .wReadStatus _ | .configure | .setBusDirection _
  | .writeByte _ | .readByte | .setRegisterSelect _ | .setReadWrite _ | .setEnable _ | .pollBusy
  | .executeInstruction _ _ | .waitNotBusy | .clearDisplay | .returnHome | .entryModeSet _ _ | .displayControl _ _ _
  | .cursorOrDisplayShift _ _ | .functionSet _ _ _ | .setDdramAddress _ | .writeCharacter _ | .setCgramAddress _
  | .readCharacter | .initialise _ _ _ | .printString _ => 0

def Statement (i : Instr) : Prop :=
  (encode i).format = formatOf i ∧ (encode i).bytes.length = sizeOf i ∧ (encode i).ints.length = intsOf i

theorem wClearDisplay : Statement (.wClearDisplay) := ⟨rfl, rfl, rfl⟩
theorem wReturnHome : Statement (.wReturnHome) := ⟨rfl, rfl, rfl⟩
theorem wEntryModeSet (a b : Bool) : Statement (.wEntryModeSet a b) := ⟨rfl, rfl, rfl⟩
theorem wDisplayControl (a b c : Bool) : Statement (.wDisplayControl a b c) := ⟨rfl, rfl, rfl⟩
theorem wCursorOrDisplayShift (a b : Bool) : Statement (.wCursorOrDisplayShift a b) := ⟨rfl, rfl, rfl⟩
theorem wFunctionSet (a b c : Bool) : Statement (.wFunctionSet a b c) := ⟨rfl, rfl, rfl⟩
theorem wSetDdramAddress (a : Addr) : Statement (.wSetDdramAddress a) := ⟨rfl, rfl, rfl⟩
theorem wWriteCharacter (a : Byte) : Statement (.wWriteCharacter a) := ⟨rfl, rfl, rfl⟩
theorem wReadStatus (a : Byte) : Statement (.wReadStatus a) := ⟨rfl, rfl, rfl⟩
theorem configure : Statement (.configure) := ⟨rfl, rfl, rfl⟩
theorem setBusDirection (a : BusDir) : Statement (.setBusDirection a) := ⟨rfl, rfl, rfl⟩
theorem writeByte (a : Byte) : Statement (.writeByte a) := ⟨rfl, rfl, rfl⟩
theorem readByte : Statement (.readByte) := ⟨rfl, rfl, rfl⟩
theorem setRegisterSelect (a : Bool) : Statement (.setRegisterSelect a) := ⟨rfl, rfl, rfl⟩
theorem setReadWrite (a : Bool) : Statement (.setReadWrite a) := ⟨rfl, rfl, rfl⟩
theorem setEnable (a : Bool) : Statement (.setEnable a) := ⟨rfl, rfl, rfl⟩
theorem pollBusy : Statement (.pollBusy) := ⟨rfl, rfl, rfl⟩
theorem executeInstruction (a : Bool) (b : Byte) : Statement (.executeInstruction a b) := ⟨rfl, rfl, rfl⟩
theorem waitNotBusy : Statement (.waitNotBusy) := ⟨rfl, rfl, rfl⟩
theorem clearDisplay : Statement (.clearDisplay) := ⟨rfl, rfl, rfl⟩
theorem returnHome : Statement (.returnHome) := ⟨rfl, rfl, rfl⟩
theorem entryModeSet (a b : Bool) : Statement (.entryModeSet a b) := ⟨rfl, rfl, rfl⟩
theorem displayControl (a b c : Bool) : Statement (.displayControl a b c) := ⟨rfl, rfl, rfl⟩
theorem cursorOrDisplayShift (a b : Bool) : Statement (.cursorOrDisplayShift a b) := ⟨rfl, rfl, rfl⟩
theorem functionSet (a b c : Bool) : Statement (.functionSet a b c) := ⟨rfl, rfl, rfl⟩
theorem setDdramAddress (a : Byte) : Statement (.setDdramAddress a) := ⟨rfl, rfl, rfl⟩
theorem writeCharacter (a : Byte) : Statement (.writeCharacter a) := ⟨rfl, rfl, rfl⟩
theorem setCgramAddress (a : Byte) : Statement (.setCgramAddress a) := ⟨rfl, rfl, rfl⟩
theorem readCharacter : Statement (.readCharacter) := ⟨rfl, rfl, rfl⟩
theorem initialise (a : LineCount) (b c : Bool) : Statement (.initialise a b c) := ⟨rfl, rfl, rfl⟩
theorem printString (a : List Byte) : Statement (.printString a) := ⟨rfl, rfl, rfl⟩
theorem setCursorLocation (a b : Int) : Statement (.setCursorLocation a b) := ⟨rfl, rfl, rfl⟩

end Sys2Proof.Laws.CallShape
end

