-- ==== Sys2Proof/Laws/State.lean ====
section
/-! SUPPORT. One lemma for each field of each named update of the state, so that no later proof unfolds a record update. -/

namespace Sys2Proof.Machine

@[simp] theorem log_cfg (s : State) (e : Event) : (s.log e).cfg = s.cfg := rfl
@[simp] theorem log_life (s : State) (e : Event) : (s.log e).life = s.life := rfl
@[simp] theorem log_pins (s : State) (e : Event) : (s.log e).pins = s.pins := rfl
@[simp] theorem log_sample (s : State) (e : Event) : (s.log e).sample = s.sample := rfl
@[simp] theorem log_ibyte (s : State) (e : Event) : (s.log e).ibyte = s.ibyte := rfl
@[simp] theorem log_seq (s : State) (e : Event) : (s.log e).seq = s.seq := rfl
@[simp] theorem log_trace (s : State) (e : Event) : (s.log e).trace = s.trace ++ [e] := rfl
@[simp] theorem log_ctl (s : State) (e : Event) : (s.log e).ctl = s.ctl := rfl
@[simp] theorem log_env (s : State) (e : Event) : (s.log e).env = s.env := rfl
@[simp] theorem log_draws (s : State) (e : Event) : (s.log e).draws = s.draws := rfl
@[simp] theorem log_calls (s : State) (e : Event) : (s.log e).calls = s.calls := rfl
@[simp] theorem log_ret (s : State) (e : Event) : (s.log e).ret = s.ret := rfl

@[simp] theorem finish_cfg (r : Ret) (s : State) : (finish r s).cfg = s.cfg := rfl
@[simp] theorem finish_life (r : Ret) (s : State) : (finish r s).life = s.life := rfl
@[simp] theorem finish_pins (r : Ret) (s : State) : (finish r s).pins = s.pins := rfl
@[simp] theorem finish_sample (r : Ret) (s : State) : (finish r s).sample = none := rfl
@[simp] theorem finish_ibyte (r : Ret) (s : State) : (finish r s).ibyte = none := rfl
@[simp] theorem finish_seq (r : Ret) (s : State) : (finish r s).seq = .idle := rfl
@[simp] theorem finish_trace (r : Ret) (s : State) : (finish r s).trace = s.trace := rfl
@[simp] theorem finish_ctl (r : Ret) (s : State) : (finish r s).ctl = s.ctl := rfl
@[simp] theorem finish_env (r : Ret) (s : State) : (finish r s).env = s.env := rfl
@[simp] theorem finish_draws (r : Ret) (s : State) : (finish r s).draws = s.draws := rfl
@[simp] theorem finish_calls (r : Ret) (s : State) : (finish r s).calls = s.calls := rfl
@[simp] theorem finish_ret (r : Ret) (s : State) : (finish r s).ret = some r := rfl

@[simp] theorem raise_cfg (c : Condition) (s : State) : (raise c s).cfg = s.cfg := rfl
@[simp] theorem raise_life (c : Condition) (s : State) : (raise c s).life = s.life := rfl
@[simp] theorem raise_pins (c : Condition) (s : State) : (raise c s).pins = s.pins := rfl
@[simp] theorem raise_sample (c : Condition) (s : State) : (raise c s).sample = none := rfl
@[simp] theorem raise_ibyte (c : Condition) (s : State) : (raise c s).ibyte = none := rfl
@[simp] theorem raise_seq (c : Condition) (s : State) : (raise c s).seq = .idle := rfl
@[simp] theorem raise_trace (c : Condition) (s : State) : (raise c s).trace = s.trace := rfl
@[simp] theorem raise_ctl (c : Condition) (s : State) : (raise c s).ctl = s.ctl := rfl
@[simp] theorem raise_env (c : Condition) (s : State) : (raise c s).env = s.env := rfl
@[simp] theorem raise_draws (c : Condition) (s : State) : (raise c s).draws = s.draws := rfl
@[simp] theorem raise_calls (c : Condition) (s : State) : (raise c s).calls = s.calls := rfl
@[simp] theorem raise_ret (c : Condition) (s : State) : (raise c s).ret = some (.raised c) := rfl

@[simp] theorem entered_cfg (s : State) : (s.entered).cfg = s.cfg := rfl
@[simp] theorem entered_life (s : State) : (s.entered).life = s.life := rfl
@[simp] theorem entered_pins (s : State) : (s.entered).pins = s.pins := rfl
@[simp] theorem entered_sample (s : State) : (s.entered).sample = s.sample := rfl
@[simp] theorem entered_ibyte (s : State) : (s.entered).ibyte = s.ibyte := rfl
@[simp] theorem entered_seq (s : State) : (s.entered).seq = s.seq := rfl
@[simp] theorem entered_trace (s : State) : (s.entered).trace = s.trace := rfl
@[simp] theorem entered_ctl (s : State) : (s.entered).ctl = s.ctl := rfl
@[simp] theorem entered_env (s : State) : (s.entered).env = s.env := rfl
@[simp] theorem entered_draws (s : State) : (s.entered).draws = s.draws := rfl
@[simp] theorem entered_calls (s : State) : (s.entered).calls = s.calls := rfl
@[simp] theorem entered_ret (s : State) : (s.entered).ret = none := rfl

@[simp] theorem configured_cfg (s : State) : (configured s).cfg = s.cfg := rfl
@[simp] theorem configured_life (s : State) : (configured s).life = .ready := rfl
@[simp] theorem configured_sample (s : State) : (configured s).sample = s.sample := rfl
@[simp] theorem configured_ibyte (s : State) : (configured s).ibyte = s.ibyte := rfl
@[simp] theorem configured_seq (s : State) : (configured s).seq = s.seq := rfl
@[simp] theorem configured_trace (s : State) : (configured s).trace = s.trace ++ [.claim true, .ctlOut, .dir .input, .rs false, .rw true, .e false] := rfl
@[simp] theorem configured_ctl (s : State) : (configured s).ctl = s.ctl := rfl
@[simp] theorem configured_env (s : State) : (configured s).env = s.env := rfl
@[simp] theorem configured_draws (s : State) : (configured s).draws = s.draws + 1 := rfl
@[simp] theorem configured_calls (s : State) : (configured s).calls = s.calls := rfl
@[simp] theorem configured_ret (s : State) : (configured s).ret = s.ret := rfl

@[simp] theorem claimFailed_cfg (s : State) : (claimFailed s).cfg = s.cfg := rfl
@[simp] theorem claimFailed_life (s : State) : (claimFailed s).life = .failed := rfl
@[simp] theorem claimFailed_sample (s : State) : (claimFailed s).sample = s.sample := rfl
@[simp] theorem claimFailed_ibyte (s : State) : (claimFailed s).ibyte = s.ibyte := rfl
@[simp] theorem claimFailed_seq (s : State) : (claimFailed s).seq = s.seq := rfl
@[simp] theorem claimFailed_trace (s : State) : (claimFailed s).trace = s.trace ++ [.claim false] := rfl
@[simp] theorem claimFailed_ctl (s : State) : (claimFailed s).ctl = s.ctl := rfl
@[simp] theorem claimFailed_env (s : State) : (claimFailed s).env = s.env := rfl
@[simp] theorem claimFailed_draws (s : State) : (claimFailed s).draws = s.draws + 1 := rfl
@[simp] theorem claimFailed_calls (s : State) : (claimFailed s).calls = s.calls := rfl
@[simp] theorem claimFailed_ret (s : State) : (claimFailed s).ret = s.ret := rfl

@[simp] theorem waited_cfg (s : State) (j inc : Nat) (c : Ctl) : (s.waited j inc c).cfg = s.cfg := rfl
@[simp] theorem waited_life (s : State) (j inc : Nat) (c : Ctl) : (s.waited j inc c).life = s.life := rfl
@[simp] theorem waited_pins (s : State) (j inc : Nat) (c : Ctl) : (s.waited j inc c).pins = s.pins := rfl
@[simp] theorem waited_sample (s : State) (j inc : Nat) (c : Ctl) : (s.waited j inc c).sample = none := rfl
@[simp] theorem waited_ibyte (s : State) (j inc : Nat) (c : Ctl) : (s.waited j inc c).ibyte = s.ibyte := rfl
@[simp] theorem waited_seq (s : State) (j inc : Nat) (c : Ctl) : (s.waited j inc c).seq = s.seq := rfl
@[simp] theorem waited_trace (s : State) (j inc : Nat) (c : Ctl) : (s.waited j inc c).trace = s.trace ++ busyRounds j s.draws ++ pollEvents (statusByte false (s.draws + j + inc)) := rfl
@[simp] theorem waited_ctl (s : State) (j inc : Nat) (c : Ctl) : (s.waited j inc c).ctl = c := rfl
@[simp] theorem waited_env (s : State) (j inc : Nat) (c : Ctl) : (s.waited j inc c).env = { s.env with due := none } := rfl
@[simp] theorem waited_draws (s : State) (j inc : Nat) (c : Ctl) : (s.waited j inc c).draws = s.draws + j + inc + 1 := rfl
@[simp] theorem waited_calls (s : State) (j inc : Nat) (c : Ctl) : (s.waited j inc c).calls = s.calls := rfl
@[simp] theorem waited_ret (s : State) (j inc : Nat) (c : Ctl) : (s.waited j inc c).ret = s.ret := rfl

@[simp] theorem executed_cfg (s : State) (rs : Bool) (v : Byte) (j inc : Nat) (c : Ctl) : (s.executed rs v j inc c).cfg = s.cfg := rfl
@[simp] theorem executed_life (s : State) (rs : Bool) (v : Byte) (j inc : Nat) (c : Ctl) : (s.executed rs v j inc c).life = s.life := rfl
@[simp] theorem executed_pins (s : State) (rs : Bool) (v : Byte) (j inc : Nat) (c : Ctl) : (s.executed rs v j inc c).pins = { s.pins with rs := false, rw := true, e := false, dir := .input, dout := v } := rfl
@[simp] theorem executed_sample (s : State) (rs : Bool) (v : Byte) (j inc : Nat) (c : Ctl) : (s.executed rs v j inc c).sample = none := rfl
@[simp] theorem executed_ibyte (s : State) (rs : Bool) (v : Byte) (j inc : Nat) (c : Ctl) : (s.executed rs v j inc c).ibyte = none := rfl
@[simp] theorem executed_seq (s : State) (rs : Bool) (v : Byte) (j inc : Nat) (c : Ctl) : (s.executed rs v j inc c).seq = s.seq := rfl
@[simp] theorem executed_trace (s : State) (rs : Bool) (v : Byte) (j inc : Nat) (c : Ctl) : (s.executed rs v j inc c).trace = s.trace ++ writeEvents rs v ++ busyRounds j (s.draws + 1) ++ pollEvents (statusByte false (s.draws + 1 + j + inc)) := rfl
@[simp] theorem executed_ctl (s : State) (rs : Bool) (v : Byte) (j inc : Nat) (c : Ctl) : (s.executed rs v j inc c).ctl = c := rfl
@[simp] theorem executed_env (s : State) (rs : Bool) (v : Byte) (j inc : Nat) (c : Ctl) : (s.executed rs v j inc c).env = { s.env with due := none, latencies := s.env.latencies.tail } := rfl
@[simp] theorem executed_draws (s : State) (rs : Bool) (v : Byte) (j inc : Nat) (c : Ctl) : (s.executed rs v j inc c).draws = s.draws + 1 + j + inc + 1 := rfl
@[simp] theorem executed_calls (s : State) (rs : Bool) (v : Byte) (j inc : Nat) (c : Ctl) : (s.executed rs v j inc c).calls = s.calls := rfl
@[simp] theorem executed_ret (s : State) (rs : Bool) (v : Byte) (j inc : Nat) (c : Ctl) : (s.executed rs v j inc c).ret = s.ret := rfl

@[simp] theorem withFetchWord_cfg (s : State) (nbits w : Nat) : (s.withFetchWord nbits w).cfg = s.cfg := rfl
@[simp] theorem withFetchWord_life (s : State) (nbits w : Nat) : (s.withFetchWord nbits w).life = s.life := rfl
@[simp] theorem withFetchWord_pins (s : State) (nbits w : Nat) : (s.withFetchWord nbits w).pins = s.pins := rfl
@[simp] theorem withFetchWord_sample (s : State) (nbits w : Nat) : (s.withFetchWord nbits w).sample = s.sample := rfl
@[simp] theorem withFetchWord_ibyte (s : State) (nbits w : Nat) : (s.withFetchWord nbits w).ibyte = s.ibyte := rfl
@[simp] theorem withFetchWord_seq (s : State) (nbits w : Nat) : (s.withFetchWord nbits w).seq = .idle := rfl
@[simp] theorem withFetchWord_trace (s : State) (nbits w : Nat) : (s.withFetchWord nbits w).trace = s.trace := rfl
@[simp] theorem withFetchWord_ctl (s : State) (nbits w : Nat) : (s.withFetchWord nbits w).ctl = s.ctl := rfl
@[simp] theorem withFetchWord_env (s : State) (nbits w : Nat) : (s.withFetchWord nbits w).env = s.env := rfl
@[simp] theorem withFetchWord_draws (s : State) (nbits w : Nat) : (s.withFetchWord nbits w).draws = s.draws := rfl
@[simp] theorem withFetchWord_calls (s : State) (nbits w : Nat) : (s.withFetchWord nbits w).calls = tableCall nbits w :: s.calls := rfl
@[simp] theorem withFetchWord_ret (s : State) (nbits w : Nat) : (s.withFetchWord nbits w).ret = s.ret := rfl

theorem configured_quiescent (s : State) : (configured s).pins.quiescent := ⟨rfl, rfl, rfl, rfl⟩

theorem executed_quiescent (s : State) (rs : Bool) (v : Byte) (j inc : Nat) (c : Ctl) :
    (s.executed rs v j inc c).pins.quiescent := ⟨rfl, rfl, rfl, rfl⟩

/-- A direction switch changes only DIR, and DOUT and the draw counter where DIR becomes OUTPUT. -/
theorem switched_frame (d : BusDir) (s : State) :
    switched d s = { s with
      pins := { s.pins with dir := d, dout := (switched d s).pins.dout }, draws := (switched d s).draws } := by
  unfold switched; split <;> rfl

theorem switched_same (d : BusDir) (s : State) (h : s.pins.dir = d) : switched d s = s := by
  unfold switched
  cases d <;> simp [h]
  · rw [← h]
  · rw [← h]

end Sys2Proof.Machine
end

