-- ==== Sys2Proof/Laws/Watch.lean ====
section
/-! SUPPORT. The watcher of TRACE over a concatenation, and over the generated sequences: a write sequence is one write transaction, a
poll one status read, and both end with the watcher of a quiescent bus. -/

namespace Sys2Proof.Machine

theorem Watch.afterAll_append (w : Watch) (a b : List Event) : w.afterAll (a ++ b) = (w.afterAll a).afterAll b := by
  induction a generalizing w with
  | nil => rfl
  | cons x a ih => exact ih _

theorem Watch.txns_append (w : Watch) (a b : List Event) : w.txns (a ++ b) = w.txns a ++ (w.afterAll a).txns b := by
  induction a generalizing w with
  | nil => rfl
  | cons x a ih => simp [Watch.txns, Watch.afterAll, ih]

theorem Watch.all_append (p : Watch → Event → Bool) (w : Watch) (a b : List Event) :
    w.all p (a ++ b) = (w.all p a && (w.afterAll a).all p b) := by
  induction a generalizing w with
  | nil => simp [Watch.all, Watch.afterAll]
  | cons x a ih => simp [Watch.all, Watch.afterAll, ih, Bool.and_assoc]

/-- The bus is quiescent as far as the watcher knows, which says nothing of the waits of past pulses. -/
def Watch.atRest (w : Watch) (idle : Bool) (data : Option Byte) : Prop :=
  w.rs = false ∧ w.rw = true ∧ w.e = false ∧ w.dir = .input ∧ w.seenIdle = idle ∧ w.data = data

theorem Watch.quiescent_atRest (idle : Bool) : (Watch.quiescent idle).atRest idle none :=
  ⟨rfl, rfl, rfl, rfl, rfl, rfl⟩

/-- The write sequence, sent after a status read that saw not busy. -/
theorem Watch.writeEvents_atRest {w : Watch} {data : Option Byte} (rs : Bool) (v : Byte) (h : w.atRest true data) :
    w.txns (writeEvents rs v) = [.wr rs (some v)] ∧ w.all hazardFree (writeEvents rs v) = true ∧
      (w.afterAll (writeEvents rs v)).atRest false (some v) := by
  obtain ⟨a, b, c, d, e, f, g, i⟩ := w
  obtain ⟨h1, h2, h3, h4, h5, h6⟩ := h
  simp only at h1 h2 h3 h4 h5 h6
  subst h1 h2 h3 h4 h5 h6
  refine ⟨?_, ?_, ?_⟩ <;>
    simp [writeEvents, Watch.txns, Watch.txn, Watch.isWrite, Watch.after, Watch.all, hazardFree, dirSwitchSafe, setupStable, byteWritten,
      writeWhenIdle, readPulseSafe, oneDriver, waitsKept, Watch.afterAll, Watch.atRest]

/-- A poll. -/
theorem Watch.pollEvents_atRest {w : Watch} {idle : Bool} {data : Option Byte} (v : Byte) (h : w.atRest idle data) :
    w.txns (pollEvents v) = [.rd v] ∧ w.all hazardFree (pollEvents v) = true ∧
      (w.afterAll (pollEvents v)).atRest (!busy v) data := by
  obtain ⟨a, b, c, d, e, f, g, i⟩ := w
  obtain ⟨h1, h2, h3, h4, h5, h6⟩ := h
  simp only at h1 h2 h3 h4 h5 h6
  subst h1 h2 h3 h4 h5 h6
  refine ⟨?_, ?_, ?_⟩ <;>
    simp [pollEvents, Watch.txns, Watch.txn, Watch.isWrite, Watch.isStatusRead, Watch.after, Watch.all, hazardFree, dirSwitchSafe,
      setupStable, byteWritten, writeWhenIdle, readPulseSafe, oneDriver, waitsKept, Watch.afterAll, Watch.atRest]

/-- The rounds of a busy-wait that see busy. -/
theorem Watch.busyRounds_atRest {w : Watch} {idle : Bool} {data : Option Byte} (k n : Nat) (h : w.atRest idle data) :
    w.txns (busyRounds k n) = (List.range' n k).map (fun i => .rd (statusByte true i)) ∧
      w.all hazardFree (busyRounds k n) = true ∧ ∃ idle', (w.afterAll (busyRounds k n)).atRest idle' data := by
  induction k generalizing w idle n with
  | zero => exact ⟨rfl, rfl, idle, h⟩
  | succ k ih =>
    obtain ⟨h1, h2, h3⟩ := Watch.pollEvents_atRest (statusByte true n) h
    have h4 : ((w.afterAll (pollEvents (statusByte true n))).afterAll [.delay .poll]).atRest
        (!busy (statusByte true n)) data := h3
    obtain ⟨i1, i2, i3⟩ := ih (n + 1) h4
    refine ⟨?_, ?_, ?_⟩
    · simp only [busyRounds, Watch.txns_append, Watch.afterAll_append, h1, i1, List.range'_succ, List.map_cons]
      rfl
    · simp only [busyRounds, Watch.all_append, Watch.afterAll_append, h2, i2]
      rfl
    · simp only [busyRounds, Watch.afterAll_append]
      exact i3

/-- In a trace that breaks no hazard rule every write carries a byte the trace fixes, so that equal transaction traces are equal
words to the controller (R48). -/
theorem Watch.writes_known {w : Watch} (evs : List Event) (hw : w.e = true → w.rw = true ∨ w.data.isSome = true)
    (h : w.all hazardFree evs = true) {rs : Bool} {b : Option Byte} (hb : .wr rs b ∈ w.txns evs) : b.isSome = true := by
  induction evs generalizing w with
  | nil => simp [Watch.txns] at hb
  | cons ev evs ih =>
    simp only [Watch.all, hazardFree, Bool.and_eq_true] at h
    obtain ⟨⟨⟨⟨⟨⟨⟨-, hs⟩, hk⟩, -⟩, -⟩, -⟩, -⟩, hr⟩ := h
    simp only [Watch.txns, List.mem_append] at hb
    rcases hb with hb | hb
    · cases ev with
      | e b' =>
        cases hi : w.isWrite (.e b') with
        | true =>
          simp only [Watch.txn, hi, if_true, List.mem_singleton, Txn.wr.injEq] at hb
          simp only [Watch.isWrite, Bool.and_eq_true, Bool.not_eq_true'] at hi
          have := hw hi.1.1
          simpa [hb.2, hi.2] using this
        | false => simp [Watch.txn, hi] at hb
      | sample v =>
        simp only [Watch.txn, Watch.isWrite, Bool.false_eq_true, if_false] at hb
        split at hb <;> simp at hb
      | _ => simp [Watch.txn, Watch.isWrite] at hb
    · refine ih ?_ hr hb
      cases ev with
      | e b' => cases b' <;> simp_all [Watch.after, setupStable, byteWritten]
      | delay k => cases k <;> simpa [Watch.after] using hw
      | _ => simp_all [Watch.after, setupStable]

end Sys2Proof.Machine
end

