-- ==== Sys2Proof/Tests/Slice0.lean ====
section
/-! SUPPORT. Tests with expected results from spec/95_test_vectors.md and from the encodings of spec/30_encoding.md, and a witness for the
hypotheses of every statement that has any. -/

namespace Sys2Proof.Tests

open Sys2Proof.Machine

set_option Elab.async false

/-! ### Helpers -/

/-- The answer is a next state that meets `p`. -/
def nextMeets (r : Result) (p : State → Bool) : Bool :=
  match r with
  | .next s => p s
  | .fault _ => false
  | .refused _ => false

/-- The answer is this fault. -/
def isFault (r : Result) (f : Fault) : Bool :=
  match r with
  | .next _ => false
  | .fault g => decide (g = f)
  | .refused _ => false

/-- The answer is this refusal. -/
def isRefused (r : Result) (q : Refusal) : Bool :=
  match r with
  | .next _ => false
  | .fault _ => false
  | .refused p => decide (p = q)

/-- A configured block in `Q` with an idle controller, AC = 5 and increment mode, as after `initialize` and an address-set. -/
def readyState : State :=
  { State.reset with
    life := .ready
    pins :=
      { rs := false, rw := true, e := false, aux := false
        ctrlDir := { rs := .output, rw := .output, e := .output, aux := .output }, dir := .input, dout := 0 }
    ctl :=
      { bf := false, pend := .none
        regs := { ac := 5, id := true, sh := false, d := true, c := false, b := false, dl := true, n := true, f := false, ofs := 3 }
        ddram := [(5, 0x58)] }
    env := { claimOk := true, due := none, latencies := [], latencyAfter := some 0 } }

/-- The same with the lines as outputs, RW = 0 and DOUT = 0x01: the start of a hand-made write. -/
def writingState : State := { readyState with pins := { readyState.pins with rw := false, dir := .output, dout := 0x01 } }

/-- The same with enable high. -/
def pulsingState : State := { writingState with pins := { writingState.pins with e := true } }

/-- `readyState` with a controller that never completes. -/
def hungState : State := { readyState with env := { readyState.env with latencyAfter := none } }

/-- `readyState` with the word 0x01 pending. -/
def pendingState (due : Option Nat) : State :=
  { readyState with
    ctl := { readyState.ctl with bf := true, pend := .word false 0x01 }, env := { readyState.env with due := due } }

/-- An operation that sends one word in a settled state whose controller completes in the first gap: a test on its next state is a
test on the closed form of `executeJob_prompt`. -/
theorem oneWord_meets {s : State} {i : Instr} {ps : List Frame} {rs : Bool} {v : Byte} {r : Ret} {c : Ctl} {p : State → Bool}
    (hs : s.settled) (hn : s.env.next = some 0) (hex : exec i s = call (sendJobs [⟨ps, rs, v⟩] r) s)
    (he : ∀ n, ctlEffect s.cfg n rs v s.ctl = .ok c)
    (h : p (finish r (s.entered.executed rs v 0 (effectDraws rs v) (ctlDone c))) = true) : nextMeets (exec i s) p = true := by
  obtain ⟨⟨hl, hi⟩, hq, hb, hp⟩ := hs
  have hc : call (sendJobs [⟨ps, rs, v⟩] r) s = executeJob ⟨ps, rs, v⟩ (fun s => sendJobs [] r s) s.entered := by
    simp [call, hl, hi, sendJobs, State.entered]
  rw [hex, hc, executeJob_prompt (s := s.entered) (j := ⟨ps, rs, v⟩) (e := fun _ => c) _ he (by decide) hq hp hb hn]
  exact h

theorem readyState_settled : readyState.settled := ⟨⟨rfl, rfl⟩, ⟨rfl, rfl, rfl, rfl⟩, rfl, rfl⟩

/-! ### Well-formedness: an ill-formed pin assignment for each pair of parts that can overlap -/

theorem test_pinMap_wf : Config.reference.pins.wf = true := by decide
theorem test_pinMap_control_pins : ({ Config.reference.pins with rwPin := 0 } : PinMap).wf = false := by decide
theorem test_pinMap_overlap : ({ Config.reference.pins with auxPin := 11 } : PinMap).wf = false := by decide

/-! ### Decoding, words from the encodings of R72 to R80 and the selectors of R85 -/

theorem test_decode_clear : decode ⟨.w, [0b00000001, 0], []⟩ = .ok .wClearDisplay := by decide
theorem test_decode_home : decode ⟨.w, [0b00000010, 0], []⟩ = .ok .wReturnHome := by decide
theorem test_decode_entry : decode ⟨.w, [0b00000101, 0], []⟩ = .ok (.wEntryModeSet false true) := by decide
theorem test_decode_display : decode ⟨.w, [0b00001100, 0], []⟩ = .ok (.wDisplayControl true false false) := by decide
theorem test_decode_shift : decode ⟨.w, [0b00010100, 0], []⟩ = .ok (.wCursorOrDisplayShift false true) := by decide
theorem test_decode_function : decode ⟨.w, [0b00110100, 0], []⟩ = .ok (.wFunctionSet true false true) := by decide
theorem test_decode_address : decode ⟨.w, [0b11000101, 0], []⟩ = .ok (.wSetDdramAddress 0x45) := by decide
theorem test_decode_character : decode ⟨.w, [0b11111111, 0b10], []⟩ = .ok (.wWriteCharacter 0xFF) := by decide
theorem test_decode_status : decode ⟨.w, [0b10000101, 0b01], []⟩ = .ok (.wReadStatus 0x85) := by decide
theorem test_decode_configure : decode ⟨.h, [0b00000], []⟩ = .ok .configure := by decide
theorem test_decode_direction : decode ⟨.h, [0b00001, 1], []⟩ = .ok (.setBusDirection .output) := by decide
theorem test_decode_write_byte : decode ⟨.h, [0b00010, 0x38], []⟩ = .ok (.writeByte 0x38) := by decide
theorem test_decode_read_byte : decode ⟨.h, [0b00011], []⟩ = .ok .readByte := by decide
theorem test_decode_select : decode ⟨.h, [0b00100, 1], []⟩ = .ok (.setRegisterSelect true) := by decide
theorem test_decode_rw : decode ⟨.h, [0b00101, 0], []⟩ = .ok (.setReadWrite false) := by decide
theorem test_decode_enable : decode ⟨.h, [0b00110, 1], []⟩ = .ok (.setEnable true) := by decide
theorem test_decode_poll : decode ⟨.h, [0b00111], []⟩ = .ok .pollBusy := by decide
theorem test_decode_execute : decode ⟨.h, [0b01000, 1, 0x6C], []⟩ = .ok (.executeInstruction true 0x6C) := by decide
theorem test_decode_wait : decode ⟨.h, [0b01001], []⟩ = .ok .waitNotBusy := by decide
theorem test_decode_clear_call : decode ⟨.h, [0b01010], []⟩ = .ok .clearDisplay := by decide
theorem test_decode_home_call : decode ⟨.h, [0b01011], []⟩ = .ok .returnHome := by decide
theorem test_decode_entry_call : decode ⟨.h, [0b01100, 1, 0], []⟩ = .ok (.entryModeSet true false) := by decide
theorem test_decode_display_call : decode ⟨.h, [0b01101, 1, 1, 0], []⟩ = .ok (.displayControl true true false) := by decide
theorem test_decode_shift_call : decode ⟨.h, [0b01110, 1, 0], []⟩ = .ok (.cursorOrDisplayShift true false) := by decide
theorem test_decode_function_call : decode ⟨.h, [0b01111, 1, 1, 0], []⟩ = .ok (.functionSet true true false) := by decide
theorem test_decode_address_call : decode ⟨.h, [0b10000, 0xC5], []⟩ = .ok (.setDdramAddress 0xC5) := by decide
theorem test_decode_character_call : decode ⟨.h, [0b10001, 0x41], []⟩ = .ok (.writeCharacter 0x41) := by decide
theorem test_decode_cgram : decode ⟨.h, [0b10010, 0x08], []⟩ = .ok (.setCgramAddress 0x08) := by decide
theorem test_decode_read_character : decode ⟨.h, [0b10011], []⟩ = .ok .readCharacter := by decide
theorem test_decode_initialise : decode ⟨.h, [0b10100, 1, 0, 1], []⟩ = .ok (.initialise .two false true) := by decide
theorem test_decode_print : decode ⟨.h, [0b10101, 0x00, 0xFF], []⟩ = .ok (.printString [0x00, 0xFF]) := by decide
theorem test_decode_cursor : decode ⟨.h, [0b10110], [1, -1]⟩ = .ok (.setCursorLocation 1 (-1)) := by decide
/-- D15: a row and a column are mathematical integers. -/
theorem test_decode_big_row : decode ⟨.h, [0b10110], [4294967296, 0]⟩ = .ok (.setCursorLocation 4294967296 0) := by decide
theorem test_decode_cursor_without_column : decode ⟨.h, [0b10110], [1]⟩ = .error .malformed := by decide
theorem test_decode_stray_integer : decode ⟨.h, [0b01010], [1, 1]⟩ = .error .malformed := by decide
theorem test_decode_unused_selector : decode ⟨.h, [0b10111], []⟩ = .error .unknownSelector := by decide
theorem test_decode_never_emitted : decode ⟨.w, [0b01000000, 0], []⟩ = .error .neverEmitted := by decide
theorem test_decode_missing_operand : decode ⟨.h, [0b00010], []⟩ = .error .malformed := by decide

/-- No two rows of format W match one word. -/
theorem test_wire_rows_disjoint :
    wireTable.Pairwise fun x y => x.pattern &&& (x.mask &&& y.mask) ≠ y.pattern &&& (x.mask &&& y.mask) := by decide

/-- A row's word and the instruction read from the host's numbering of it. -/
theorem test_table_word : decodeTableWord 16 0x285 = some (.wWriteCharacter 0x85) := by decide
theorem test_table_selector : decodeTableWord 8 0x14 = some (.initialise .one false false) := by decide

/-! ### Bytes, spec/95_test_vectors.md part 1 and 2 -/

theorem test_entry_byte : entryModeByte true false = 0b00000110 := by decide
theorem test_display_byte : displayControlByte true true false = 0b00001110 := by decide
theorem test_function_byte : functionSetByte true true false = 0b00111000 := by decide
theorem test_address_byte_drops_bit_7 : ddramAddressByte 0x80 = 0x80 := by decide
theorem test_display_left_byte : shiftByte true false = 0x18 := by decide

/-! ### One step of each instruction -/

theorem test_configure :
    nextMeets (exec .configure State.reset) (fun s =>
      decide (s.life = .ready ∧ s.trace = [.claim true, .ctlOut, .dir .input, .rs false, .rw true, .e false])) = true := by
  decide +kernel
theorem test_configure_fails :
    nextMeets (exec .configure { State.reset with env := { State.reset.env with claimOk := false } }) (fun s =>
      decide (s.life = .failed ∧ s.trace = [.claim false] ∧ s.ret = some (.raised .pinClaimFailure))) = true := by
  decide +kernel
theorem test_configure_twice : isRefused (exec .configure readyState) .configureTwice = true := by decide +kernel
theorem test_not_configured : isRefused (exec (.setEnable true) State.reset) .notConfigured = true := by decide +kernel
theorem test_direction :
    nextMeets (exec (.setBusDirection .output) readyState) (fun s =>
      decide (s.pins.dir = .output ∧ s.trace = [.dir .output])) = true := by decide +kernel
theorem test_direction_enable_high :
    isFault (exec (.setBusDirection .output) pulsingState) .dirSwitchWhileEnableHigh = true := by decide +kernel
theorem test_write_byte_lines :
    nextMeets (exec (.writeByte 0x38) writingState) (fun s =>
      decide ((List.range 8).map (fun i => s.pinLevel (4 + i)) =
        [some false, some false, some false, some true, some true, some true, some false, some false])) = true := by
  decide +kernel
theorem test_write_byte_wrong_direction : isRefused (exec (.writeByte 1) readyState) .wrongDirection = true := by
  decide +kernel
theorem test_read_byte_wrong_direction : isRefused (exec .readByte writingState) .wrongDirection = true := by
  decide +kernel
theorem test_read_byte_event :
    nextMeets (exec .readByte readyState) (fun s => decide (s.trace.length = 1 ∧ s.sample = none)) = true := by
  decide +kernel
theorem test_select :
    nextMeets (exec (.setRegisterSelect true) readyState) (fun s =>
      decide (s.pins = { readyState.pins with rs := true } ∧ s.trace = [.rs true])) = true := by decide +kernel
theorem test_read_write_enable_high :
    isFault (exec (.setReadWrite false) pulsingState) .changeWhileEnableHigh = true := by decide +kernel
theorem test_enable_latches :
    nextMeets (exec (.setEnable false) pulsingState) (fun s =>
      decide (s.ctl.bf = true ∧ s.ctl.pend = .word false 0x01)) = true := by decide +kernel
theorem test_enable_contention :
    isFault (exec (.setEnable true) { writingState with pins := { writingState.pins with rw := true } })
      .busContention = true := by decide +kernel
theorem test_poll_during_write : isFault (exec .pollBusy writingState) .pollDuringWrite = true := by decide +kernel
/-- The poll of a state that meets `pollBusy_idle` or `pollBusy_never` returns its busy flag. -/
theorem poll_returns {s : State} {i : Instr} (hx : exec i s = returning (fun t => .bool t.busyResult) (pollBusy s.entered))
    (h : pollBusy s.entered = .next { s.entered with
      sample := some (statusByte s.ctl.bf s.draws), draws := s.draws + 1
      trace := s.trace ++ pollEvents (statusByte s.ctl.bf s.draws) }) :
    nextMeets (exec i s) (fun t =>
      decide (t.ret = some (.bool s.ctl.bf) ∧ t.trace.length = s.trace.length + 6 ∧ t.ctl.bf = s.ctl.bf)) = true := by
  rw [hx, h]
  simp [returning, State.busyResult, nextMeets, finish, pollEvents, State.entered]
theorem test_poll_not_busy :
    nextMeets (exec .pollBusy readyState) (fun s =>
      decide (s.ret = some (.bool false) ∧ s.trace.length = 6 ∧ s.ctl.bf = false)) = true :=
  poll_returns rfl (pollBusy_idle ⟨rfl, rfl, rfl, rfl⟩ rfl)
theorem test_read_status_word :
    nextMeets (exec (.wReadStatus 0xFF) readyState) (fun s =>
      decide (s.ret = some (.bool false) ∧ s.trace.length = 6 ∧ s.ctl.bf = false)) = true :=
  poll_returns rfl (pollBusy_idle ⟨rfl, rfl, rfl, rfl⟩ rfl)
theorem test_execute_events :
    nextMeets (exec (.executeInstruction false 0x0C) readyState) (fun s => decide (s.trace.length = 16)) = true :=
  oneWord_meets ⟨⟨rfl, rfl⟩, ⟨rfl, rfl, rfl, rfl⟩, rfl, rfl⟩ rfl rfl (fun _ => rfl) (by decide +kernel)
theorem test_wait_one_poll :
    nextMeets (exec .waitNotBusy readyState) (fun s => decide (s.trace.length = 6 ∧ s.seq = .idle)) = true := by
  rw [show exec .waitNotBusy readyState = busyWait [] (fun s => .next (finish .nothing s)) (0 + 1) 0 readyState.entered from rfl,
    busyWait_idle _ _ _ _ ⟨rfl, rfl, rfl, rfl⟩ rfl rfl]
  decide +kernel
/-- R109, R174: a controller that never completes answers every poll busy. -/
theorem test_poll_hang :
    nextMeets (exec .pollBusy (pendingState none)) (fun s =>
      decide (s.ret = some (.bool true) ∧ s.trace.length = 6 ∧ s.ctl.bf = true)) = true :=
  poll_returns rfl (pollBusy_never ⟨rfl, rfl, rfl, rfl⟩ rfl)
/-- The events of `configure`, a poll that saw not busy, and a hand-made write up to its pulse; with `Data(1)` or without. -/
def pulseTrace (written : Bool) : List Event :=
  [.claim true, .ctlOut, .dir .input, .rs false, .rw true, .e false] ++ pollEvents 0x00 ++ [.rw false, .dir .output] ++
    (if written then [.data 0x01] else []) ++ [.e true, .delay .pulse]
/-- R46, R48, R16: with the byte written the transaction is Wr(0, 0x01); without, its byte is under no law, and the pulse breaks R211. -/
theorem test_transactions :
    Watch.powerOn.txns (pulseTrace true ++ [.e false]) = [.rd 0x00, .wr false (some 0x01)] ∧
      Watch.powerOn.txns (pulseTrace false ++ [.e false]) = [.rd 0x00, .wr false none] ∧
      Watch.all hazardFree Watch.powerOn (pulseTrace true ++ [.e false]) = true ∧
      Watch.all hazardFree Watch.powerOn (pulseTrace false ++ [.e false]) = false := by decide
/-- R211: a second rise of enable before its fall is outside the generated sequences, as is a latch write. -/
theorem test_setup_stable :
    Watch.all setupStable Watch.powerOn [.e true, .e true, .e false] = false ∧
      Watch.all setupStable Watch.powerOn [.e true, .rs true, .e false] = false ∧
      Watch.all setupStable Watch.powerOn [.e true, .ctlOut, .e false] = false ∧
      Watch.all setupStable Watch.powerOn (writeEvents true 0x41 ++ pollEvents 0x80) = true := by decide
theorem test_clear :
    nextMeets (exec .clearDisplay readyState) (fun s =>
      decide (s.ctl.regs.ac = 0 ∧ Memory.read s.ctl.ddram 0x67 = some 0x20 ∧ Memory.read s.ctl.ddram 0x28 = none)) = true :=
  oneWord_meets ⟨⟨rfl, rfl⟩, ⟨rfl, rfl, rfl, rfl⟩, rfl, rfl⟩ rfl rfl (fun _ => rfl) (by decide +kernel)
theorem test_clear_word :
    nextMeets (exec .wClearDisplay readyState) (fun s => decide (Memory.read s.ctl.ddram 5 = some 0x20)) = true :=
  oneWord_meets ⟨⟨rfl, rfl⟩, ⟨rfl, rfl, rfl, rfl⟩, rfl, rfl⟩ rfl rfl (fun _ => rfl) (by decide +kernel)
theorem test_home :
    nextMeets (exec .returnHome readyState) (fun s =>
      decide (s.ctl.regs.ac = 0 ∧ s.ctl.regs.ofs = 0 ∧ s.ctl.ddram = [(5, 0x58)])) = true :=
  oneWord_meets ⟨⟨rfl, rfl⟩, ⟨rfl, rfl, rfl, rfl⟩, rfl, rfl⟩ rfl rfl (fun _ => rfl) (by decide +kernel)
theorem test_home_word :
    nextMeets (exec .wReturnHome readyState) (fun s => decide (s.ctl.regs.ofs = 0)) = true :=
  oneWord_meets ⟨⟨rfl, rfl⟩, ⟨rfl, rfl, rfl, rfl⟩, rfl, rfl⟩ rfl rfl (fun _ => rfl) (by decide +kernel)
theorem test_entry :
    nextMeets (exec (.entryModeSet false true) readyState) (fun s =>
      decide (s.ctl.regs.id = false ∧ s.ctl.regs.sh = true)) = true :=
  oneWord_meets ⟨⟨rfl, rfl⟩, ⟨rfl, rfl, rfl, rfl⟩, rfl, rfl⟩ rfl rfl (fun _ => rfl) (by decide +kernel)
theorem test_entry_word :
    nextMeets (exec (.wEntryModeSet false true) readyState) (fun s => decide (s.ctl.regs.id = false)) = true :=
  oneWord_meets ⟨⟨rfl, rfl⟩, ⟨rfl, rfl, rfl, rfl⟩, rfl, rfl⟩ rfl rfl (fun _ => rfl) (by decide +kernel)
theorem test_display :
    nextMeets (exec (.displayControl false true false) readyState) (fun s =>
      decide (s.ctl.regs.d = false ∧ s.ctl.regs.c = true ∧ s.ctl.regs.b = false)) = true :=
  oneWord_meets ⟨⟨rfl, rfl⟩, ⟨rfl, rfl, rfl, rfl⟩, rfl, rfl⟩ rfl rfl (fun _ => rfl) (by decide +kernel)
theorem test_display_word :
    nextMeets (exec (.wDisplayControl false false true) readyState) (fun s => decide (s.ctl.regs.b = true)) = true :=
  oneWord_meets ⟨⟨rfl, rfl⟩, ⟨rfl, rfl, rfl, rfl⟩, rfl, rfl⟩ rfl rfl (fun _ => rfl) (by decide +kernel)
theorem test_shift_window_left :
    nextMeets (exec (.cursorOrDisplayShift true false) readyState) (fun s =>
      decide (s.ctl.regs.ofs = 2 ∧ s.ctl.regs.ac = 5)) = true :=
  oneWord_meets ⟨⟨rfl, rfl⟩, ⟨rfl, rfl, rfl, rfl⟩, rfl, rfl⟩ rfl rfl (fun _ => rfl) (by decide +kernel)
theorem test_shift_cursor_right_word :
    nextMeets (exec (.wCursorOrDisplayShift false true) readyState) (fun s =>
      decide (s.ctl.regs.ofs = 3 ∧ s.ctl.regs.ac = 6)) = true :=
  oneWord_meets ⟨⟨rfl, rfl⟩, ⟨rfl, rfl, rfl, rfl⟩, rfl, rfl⟩ rfl rfl (fun _ => rfl) (by decide +kernel)
theorem test_function :
    nextMeets (exec (.functionSet true false true) readyState) (fun s =>
      decide (s.ctl.regs.n = false ∧ s.ctl.regs.f = true)) = true :=
  oneWord_meets ⟨⟨rfl, rfl⟩, ⟨rfl, rfl, rfl, rfl⟩, rfl, rfl⟩ rfl rfl (fun _ => rfl) (by decide +kernel)
theorem test_function_four_bit_word :
    isFault (exec (.wFunctionSet false true false) readyState) .fourBitModeSelected = true := by decide +kernel
theorem test_address :
    nextMeets (exec (.setDdramAddress 0xC5) readyState) (fun s => decide (s.ctl.regs.ac = 0x45)) = true :=
  oneWord_meets ⟨⟨rfl, rfl⟩, ⟨rfl, rfl, rfl, rfl⟩, rfl, rfl⟩ rfl rfl (fun _ => rfl) (by decide +kernel)
theorem test_address_word :
    nextMeets (exec (.wSetDdramAddress 0x67) readyState) (fun s => decide (s.ctl.regs.ac = 0x67)) = true :=
  oneWord_meets ⟨⟨rfl, rfl⟩, ⟨rfl, rfl, rfl, rfl⟩, rfl, rfl⟩ rfl rfl (fun _ => rfl) (by decide +kernel)
theorem test_character :
    nextMeets (exec (.writeCharacter 0x6C) readyState) (fun s =>
      decide (s.ctl.ddram = [(5, 0x6C)] ∧ s.ctl.regs.ac = 6)) = true :=
  oneWord_meets ⟨⟨rfl, rfl⟩, ⟨rfl, rfl, rfl, rfl⟩, rfl, rfl⟩ rfl rfl (fun _ => rfl) (by decide +kernel)
theorem test_character_decrement_word :
    nextMeets
      (exec (.wWriteCharacter 0x41)
        { readyState with ctl := { readyState.ctl with regs := { readyState.ctl.regs with id := false } } })
      (fun s => decide (Memory.read s.ctl.ddram 5 = some 0x41 ∧ s.ctl.regs.ac = 4)) = true :=
  oneWord_meets ⟨⟨rfl, rfl⟩, ⟨rfl, rfl, rfl, rfl⟩, rfl, rfl⟩ rfl rfl (fun _ => rfl) (by decide +kernel)
theorem test_cgram_stub :
    nextMeets (exec (.setCgramAddress 0x3F) readyState) (fun s => decide (s.trace = [] ∧ s.ret = some .ok)) = true := by
  decide +kernel
theorem test_read_character_stub :
    nextMeets (exec .readCharacter readyState) (fun s => decide (s.trace = [] ∧ s.ret = some (.byte 0))) = true := by
  decide +kernel
/-- 6 events of `configure`, one poll, and four words of 16 events each. -/
theorem test_initialise :
    nextMeets (exec (.initialise .two true false) State.reset) (fun s =>
      decide (s.trace.length = 76 ∧ s.ctl.regs.c = true ∧ s.ctl.regs.n = true ∧ s.ret = some .ok)) = true := by
  rw [show exec (.initialise .two true false) State.reset =
      andThen (ctlGap State.reset.entered) fun s => busyWait [.initialise .i2 .two true false]
        (fun s => sendJobs (initJobs .two true false) .ok s) (0 + 1) 0 (configured s) from rfl]
  simp only [show ctlGap State.reset.entered = ctlComplete State.reset.entered from rfl]
  rw [show ctlComplete State.reset.entered = .next _ from rfl, andThen_next, busyWait_idle _ _ _ _ ⟨rfl, rfl, rfl, rfl⟩ rfl rfl]
  simp only [sendJobs, initJobs]
  rw [executeJob_prompt (d := 0) _ (fun _ => rfl) (by decide) ⟨rfl, rfl, rfl, rfl⟩ rfl rfl rfl,
    executeJob_prompt (d := 0) _ (fun _ => rfl) (by decide) ⟨rfl, rfl, rfl, rfl⟩ rfl rfl rfl,
    executeJob_prompt (d := 0) _ (fun _ => rfl) (by decide) ⟨rfl, rfl, rfl, rfl⟩ rfl rfl rfl,
    executeJob_prompt (d := 0) _ (fun _ => rfl) (by decide) ⟨rfl, rfl, rfl, rfl⟩ rfl rfl rfl]
  decide +kernel
theorem test_print :
    nextMeets (exec (.printString [0x6C, 0x6F]) readyState) (fun s =>
      decide (s.ctl.ddram = [(5, 0x6C), (6, 0x6F)] ∧ s.ctl.regs.ac = 7)) = true := by
  rw [show exec (.printString [0x6C, 0x6F]) readyState =
      executeJob ⟨[.operation .writeCharacter, .printString 0 [0x6C, 0x6F]], true, 0x6C⟩
        (executeJob ⟨[.operation .writeCharacter, .printString 1 [0x6C, 0x6F]], true, 0x6F⟩ fun s => .next (finish .ok s))
        readyState.entered from rfl,
    executeJob_prompt (d := 0) _ (fun _ => rfl) (by decide) ⟨rfl, rfl, rfl, rfl⟩ rfl rfl rfl,
    executeJob_prompt (d := 0) _ (fun _ => rfl) (by decide) ⟨rfl, rfl, rfl, rfl⟩ rfl rfl rfl]
  decide +kernel
theorem test_print_21 :
    nextMeets (exec (.printString (List.replicate 21 0x41)) readyState) (fun s =>
      decide (s.trace = [] ∧ s.ret = some (.raised .invalidInput))) = true := by decide +kernel
theorem test_cursor_columns :
    nextMeets (exec (.setCursorLocation 1 19) { readyState with cfg := { readyState.cfg with cols := .c20 } }) (fun s =>
      decide (s.ctl.regs.ac = 0x53 ∧ s.pins.dout = 0xD3)) = true := by
  rw [show exec (.setCursorLocation 1 19) { readyState with cfg := { readyState.cfg with cols := .c20 } } =
      executeJob ⟨[.operation .setDdramAddress, .setCursorLocation 1 19], false, 0xD3⟩ (fun s => .next (finish .ok s))
        { readyState.entered with cfg := { readyState.cfg with cols := .c20 } } from rfl,
    executeJob_prompt (d := 0) _ (fun _ => rfl) (by decide) ⟨rfl, rfl, rfl, rfl⟩ rfl rfl rfl]
  decide +kernel
theorem test_cursor_rejected :
    nextMeets (exec (.setCursorLocation 0 16) readyState) (fun s =>
      decide (s.trace = [] ∧ s.ret = some (.raised .invalidInput))) = true := by decide +kernel

/-- One instruction that sees not busy at once waits for one pulse and one settle; each busy poll adds a settle and a sleep. -/
theorem test_least_elapsed :
    leastElapsed Config.reference (writeEvents false 0x0C ++ busyRounds 1 0 ++ pollEvents 0x00) = 1 + (1 + 5) + 1 := by
  decide +kernel

/-! ### Witnesses: every statement's hypotheses are met by a concrete state and operands -/

theorem witness_settled : readyState.settled := readyState_settled
theorem witness_accepts : readyState.accepts := ⟨rfl, rfl⟩
theorem witness_runnable : readyState.runnable := ⟨witness_settled, rfl, by decide⟩
theorem witness_responsive : readyState.responsive :=
  ⟨fun h => absurd rfl h, by simp [readyState], by decide⟩
theorem witness_gap : ctlGap readyState.entered = .next readyState.entered := rfl
theorem witness_writing_accepts : writingState.accepts := ⟨rfl, rfl⟩
theorem witness_writing_gap : ctlGap writingState.entered = .next writingState.entered := rfl
theorem witness_pulsing_accepts : pulsingState.accepts := ⟨rfl, rfl⟩
theorem witness_pulsing_gap : ctlGap pulsingState.entered = .next pulsingState.entered := rfl
theorem witness_reset_inv : State.reset.Inv :=
  ⟨rfl, by decide, fun _ => rfl, rfl, (fun h => by cases h), (fun h => by cases h), fun h => absurd rfl h⟩

theorem witness_EncodeOfDecode : decode ⟨.h, [0x15, 0x41], []⟩ = .ok (.printString [0x41]) := by decide
theorem witness_StepRunsDecodedCall :
    ({ readyState with calls := [⟨.h, [0x0A], []⟩] } : State).seq = .idle ∧ decode ⟨.h, [0x0A], []⟩ = .ok .clearDisplay ∧
      decodeTableWord 8 0x16 = some (.setCursorLocation 0 0) := by decide
theorem witness_UnusedSelectorsRefused :
    ({ readyState with calls := [⟨.h, [0x17], []⟩] } : State).seq = .idle ∧ 0x17 ≤ (0x17 : Byte).toNat := by decide
theorem witness_NothingHappensWithoutCall :
    readyState.seq = .idle ∧ readyState.calls = [] ∧ readyState.ctl.pend = .none := by decide
theorem witness_StepKeepsInvariant : State.reset.Inv ∧ nextMeets (step State.reset) (fun _ => true) = true :=
  ⟨witness_reset_inv, by decide +kernel⟩
theorem witness_StepKeepsParameters : nextMeets (step readyState) (fun _ => true) = true := by decide +kernel
theorem witness_TraceOnlyGrows : nextMeets (step readyState) (fun _ => true) = true := by decide +kernel
theorem witness_LifecycleNeverGoesBack :
    readyState.life = .ready ∧ nextMeets (step { readyState with life := .failed }) (fun _ => true) = true := by
  decide +kernel
theorem witness_NotConfiguredRefused : State.reset.seq = .idle ∧ State.reset.life ≠ .ready := by decide
theorem witness_SecondConfigureRefused : readyState.seq = .idle ∧ readyState.life ≠ .unconfigured := by decide
theorem witness_ReenteredRefused : ({ readyState with seq := .waiting 1 [] } : State).seq ≠ .idle := by decide
theorem witness_ConfigureLeavesQuiescentBus :
    State.reset.seq = .idle ∧ State.reset.life = .unconfigured ∧ State.reset.env.claimOk = true ∧
      ∃ u, ctlGap State.reset.entered = .next u := ⟨rfl, rfl, rfl, _, rfl⟩
theorem witness_ConfigureReportsFailedClaim :
    let s : State := { State.reset with env := { State.reset.env with claimOk := false } }
    s.seq = .idle ∧ s.life = .unconfigured ∧ s.env.claimOk = false ∧ ∃ u, ctlGap s.entered = .next u :=
  ⟨rfl, rfl, rfl, _, rfl⟩
theorem witness_DirectionSwitchCompletes :
    (readyState.accepts ∧ readyState.pins.e = false ∧ ctlGap readyState.entered = .next readyState.entered) ∧
      (writingState.accepts ∧ writingState.pins.dir = .output ∧ writingState.pins.e = false) ∧
      (pulsingState.accepts ∧ pulsingState.pins.e = true) :=
  ⟨⟨witness_accepts, rfl, rfl⟩, ⟨witness_writing_accepts, rfl, rfl⟩, witness_pulsing_accepts, rfl⟩
theorem witness_WriteByteCompletes :
    (readyState.accepts ∧ readyState.pins.dir = .input) ∧
      (pulsingState.accepts ∧ pulsingState.pins.dir = .output ∧ pulsingState.pins.e = true) ∧
      (writingState.accepts ∧ writingState.pins.dir = .output ∧ writingState.pins.e = false ∧
        ctlGap writingState.entered = .next writingState.entered ∧ writingState.cfg.pins.wf = true) :=
  ⟨⟨witness_accepts, rfl⟩, ⟨witness_pulsing_accepts, rfl, rfl⟩, witness_writing_accepts, rfl, rfl, rfl, by decide⟩
theorem witness_ReadByteCompletes :
    (writingState.accepts ∧ writingState.pins.dir = .output) ∧
    (let s : State := { readyState with pins := { readyState.pins with e := true } }
     s.accepts ∧ s.pins.dir = .input ∧ ctlGap s.entered = .next s.entered ∧
       (s.pins.e = true ∧ s.pins.rw = true ∧ s.pins.rs = false)) :=
  ⟨⟨witness_writing_accepts, rfl⟩, ⟨rfl, rfl⟩, rfl, rfl, rfl, rfl, rfl⟩
theorem witness_SelectPinsComplete :
    (readyState.accepts ∧ readyState.pins.e = false ∧ ctlGap readyState.entered = .next readyState.entered) ∧
      (pulsingState.accepts ∧ pulsingState.pins.e = true) :=
  ⟨⟨witness_accepts, rfl, rfl⟩, witness_pulsing_accepts, rfl⟩
/-- The rise of a read pulse, a second `set_enable(1)` with enable high (log 25), and the fall that ends a character read (log 26). -/
theorem witness_EnableCompletesWithoutLatch :
    (readyState.accepts ∧ ctlGap readyState.entered = .next readyState.entered ∧
      ¬ (readyState.pins.e = true ∧ true = false ∧ readyState.pins.rw = false) ∧
      ¬ (readyState.pins.e = false ∧ true = true ∧ readyState.pins.rw = true ∧ readyState.pins.dir = .output)) ∧
    (pulsingState.accepts ∧ ctlGap pulsingState.entered = .next pulsingState.entered ∧ pulsingState.pins.e = true ∧
      ¬ (pulsingState.pins.e = true ∧ true = false ∧ pulsingState.pins.rw = false) ∧
      ¬ (pulsingState.pins.e = false ∧ true = true ∧ pulsingState.pins.rw = true ∧ pulsingState.pins.dir = .output)) ∧
    (let s : State := { readyState with pins := { readyState.pins with rs := true, e := true } }
     s.accepts ∧ ctlGap s.entered = .next s.entered ∧ s.pins.rs = true ∧
       ¬ (s.pins.e = true ∧ false = false ∧ s.pins.rw = false) ∧
       ¬ (s.pins.e = false ∧ false = true ∧ s.pins.rw = true ∧ s.pins.dir = .output)) :=
  ⟨⟨witness_accepts, rfl, by decide, by decide⟩, ⟨witness_pulsing_accepts, rfl, rfl, by decide, by decide⟩,
    ⟨rfl, rfl⟩, rfl, rfl, by decide, by decide⟩
theorem witness_FallingEnableLatchesWord :
    pulsingState.accepts ∧ ctlGap pulsingState.entered = .next pulsingState.entered ∧ pulsingState.pins.e = true ∧
      pulsingState.pins.rw = false ∧ pulsingState.pins.dir = .output ∧ pulsingState.entered.ctl.bf = false :=
  ⟨witness_pulsing_accepts, rfl, rfl, rfl, rfl, rfl⟩
/-- The clause on the transaction trace: the invariant with a TRACE that fixes DOUT, and with one that does not. -/
theorem witness_FallingEnableLatchesWord_trace :
    ({ pulsingState with trace := pulseTrace true } : State).Inv ∧ ({ pulsingState with trace := pulseTrace false } : State).Inv ∧
      Watch.all hazardFree Watch.powerOn (pulseTrace true ++ [.e false]) = true :=
  ⟨⟨rfl, by decide, (fun h => by cases h), by decide, (fun _ => ⟨rfl, rfl, rfl, rfl, .inr rfl⟩), (fun _ => by decide),
      fun h => absurd rfl h⟩,
    ⟨rfl, by decide, (fun h => by cases h), by decide, (fun _ => ⟨rfl, rfl, rfl, rfl, .inl rfl⟩), (fun _ => by decide),
      fun h => absurd rfl h⟩, by decide⟩
/-- One state for each clause. -/
theorem witness_EnableEdgeFaults :
    (let s : State := { pulsingState with pins := { pulsingState.pins with dir := .input } }
     s.accepts ∧ ctlGap s.entered = .next s.entered ∧ s.pins.e = true ∧ s.pins.rw = false ∧ s.pins.dir = .input) ∧
    (let s : State := { pulsingState with ctl := (pendingState none).ctl }
     s.accepts ∧ ctlGap s.entered = .next s.entered ∧ s.pins.e = true ∧ s.pins.rw = false ∧ s.pins.dir = .output ∧
       s.entered.ctl.bf = true) ∧
    (let s : State := { writingState with pins := { writingState.pins with rw := true } }
     s.accepts ∧ ctlGap s.entered = .next s.entered ∧ s.pins.e = false ∧ s.pins.rw = true ∧ s.pins.dir = .output) :=
  ⟨⟨⟨rfl, rfl⟩, rfl, rfl, rfl, rfl⟩, ⟨⟨rfl, rfl⟩, rfl, rfl, rfl, rfl, rfl⟩, ⟨rfl, rfl⟩, rfl, rfl, rfl, rfl⟩
/-- The premises at a pending 0x01, whenever it completes; and a state for each clause, on both sides of the sample. -/
theorem witness_PollCompletes :
    (∀ due, (pendingState due).accepts ∧ (pendingState due).pins.dir = .input ∧ (pendingState due).pins.e = false ∧
      (∀ (d n : Nat) (rs : Bool) (v : Byte), (pendingState due).ctl.pend = .word rs v → (pendingState due).env.due = some d →
        d < 6 → ∃ c, ctlEffect (pendingState due).cfg n rs v (pendingState due).ctl = .ok c)) ∧
      readyState.ctl.pend = .none ∧ (pendingState none).env.due = none ∧
      ((pendingState (some 5)).ctl.pend ≠ .none ∧ (pendingState (some 5)).env.due = some 5 ∧ 5 ≤ 5) ∧
      ((pendingState (some 4)).ctl.pend ≠ .none ∧ (pendingState (some 4)).env.due = some 4 ∧ 4 < 5) :=
  ⟨fun _ => ⟨⟨rfl, rfl⟩, rfl, rfl, fun _ _ _ _ h _ _ => by cases h; exact ⟨_, rfl⟩⟩, rfl, rfl,
    ⟨by decide, rfl, by decide⟩, by decide, rfl, by decide⟩
theorem witness_PollDuringWriteFaults :
    writingState.accepts ∧ (writingState.pins.dir = .output ∨ writingState.pins.e = true) :=
  ⟨witness_writing_accepts, .inl rfl⟩
theorem witness_DataLinesCarryDout : readyState.cfg.pins.wf = true ∧ 7 < 8 := by decide
/-- One state for each clause that has hypotheses. -/
theorem witness_ControllerMovesInGap :
    readyState.ctl.pend = .none ∧ hungState.env.due = none ∧
    ((pendingState (some 3)).ctl.pend ≠ .none ∧ (pendingState (some 3)).env.due = some (2 + 1)) ∧
    ((pendingState (some 0)).ctl.pend = .word false 0x01 ∧ (pendingState (some 0)).env.due = some 0 ∧
      ∃ c, ctlEffect (pendingState (some 0)).cfg 0 false 0x01 (pendingState (some 0)).ctl = .ok c) ∧
    (ctlEffect readyState.cfg 0 false 0x00 readyState.ctl = .error .unknownCommand) :=
  ⟨rfl, rfl, ⟨by decide, rfl⟩, ⟨rfl, rfl, _, rfl⟩, rfl⟩
theorem witness_CompletionFaults :
    (pendingState (some 0)).env.due = some 0 ∧
      ({ pendingState (some 0) with ctl := { readyState.ctl with pend := .word false (functionSetByte false true false) } }
        : State).ctl.pend = .word false 0x28 := ⟨rfl, by decide⟩
theorem witness_AddressStepInsideLines :
    validCell ((0x66 : Addr).toNat + 1) = true ∧ 0 < (0x41 : Addr).toNat ∧ validCell ((0x41 : Addr).toNat - 1) = true := by
  decide
theorem witness_ExecuteInstructionCompletes :
    readyState.runnable ∧ ∀ n, ctlEffect readyState.cfg n false 0x02 readyState.ctl = .ok (ctlReturnHome readyState.ctl) :=
  ⟨witness_runnable, fun _ => rfl⟩
/-- Both sides of each end of the two lines. -/
theorem witness_SetDdramAddressCompletes :
    validCell ((0x27 : Byte).toNat % 128) = true ∧ validCell ((0x28 : Byte).toNat % 128) = false ∧
      validCell ((0x3F : Byte).toNat % 128) = false ∧ validCell ((0xC0 : Byte).toNat % 128) = true ∧
      validCell ((0x67 : Byte).toNat % 128) = true ∧ validCell ((0xE8 : Byte).toNat % 128) = false := by decide
theorem witness_CharacterWriteFrame : readyState.runnable ∧ writeCell readyState.ctl.regs.ac = some 5 ∧ (5 : Addr).toNat ≠ 6 :=
  ⟨witness_runnable, by decide, by decide⟩
/-- For the statements `<Operation>Completes` of the one-word operations, and FourBitModeFaults. -/
theorem witness_oneWordOperations :
    readyState.runnable ∧ readyState.cfg.cursorMovesAc = true ∧ readyState.cfg.writeShiftsAgainst = true ∧
      validCell readyState.ctl.regs.ac.toNat = true := ⟨witness_runnable, rfl, rfl, by decide⟩
/-- Both ways the wait can stand: an idle controller, and a pending word that will complete. -/
theorem witness_WaitNotBusyCompletes :
    (readyState.accepts ∧ readyState.pins.quiescent ∧ readyState.cfg.pollLimit = none ∧
      (readyState.ctl.pend = .none ∧ readyState.ctl.bf = false)) ∧
    (let s := pendingState (some 9)
     s.accepts ∧ s.pins.quiescent ∧ s.cfg.pollLimit = none ∧ s.env.due ≠ none ∧ s.ctl.bf = true ∧
       ∃ rs v, s.ctl.pend = .word rs v ∧ ∀ n, ∃ c, ctlEffect s.cfg n rs v s.ctl = .ok c) :=
  ⟨⟨witness_accepts, witness_settled.2.1, rfl, rfl, rfl⟩,
    ⟨rfl, rfl⟩, ⟨rfl, rfl, rfl, rfl⟩, rfl, by decide, rfl, false, 0x01, rfl, fun _ => ⟨_, rfl⟩⟩
theorem witness_StubsComplete : readyState.accepts := witness_accepts
theorem witness_InitialiseCompletes :
    State.reset.seq = .idle ∧ State.reset.life = .unconfigured ∧ State.reset.env.claimOk = true ∧
      State.reset.cfg.pollLimit = none ∧ State.reset.cfg.standardPart = true ∧ State.reset.responsive ∧
      (State.reset.ctl.pend = .powerOn ∧ State.reset.ctl.bf = true) :=
  ⟨rfl, rfl, rfl, rfl, by decide, ⟨fun _ => by decide, by simp [State.reset], by decide⟩, rfl, rfl⟩
theorem witness_InitialiseReportsFailedClaim :
    let s : State := { State.reset with env := { State.reset.env with claimOk := false } }
    s.seq = .idle ∧ s.life = .unconfigured ∧ s.env.claimOk = false ∧ ∃ u, ctlGap s.entered = .next u :=
  ⟨rfl, rfl, rfl, _, rfl⟩
theorem witness_PrintStringCompletes :
    readyState.settled ∧ readyState.cfg.pollLimit = none ∧ readyState.responsive ∧
      0 < (List.replicate 20 (0x41 : Byte)).length ∧ (List.replicate 20 (0x41 : Byte)).length ≤ readyState.cfg.lineCap :=
  ⟨witness_settled, rfl, witness_responsive, by decide, by decide⟩
/-- Both causes, each at its boundary. -/
theorem witness_PrintStringRejects :
    readyState.accepts ∧ ([] : List Byte).length = 0 ∧
      readyState.cfg.lineCap < (List.replicate 21 (0x41 : Byte)).length := ⟨witness_accepts, rfl, by decide⟩
theorem witness_SetCursorLocationCompletes : readyState.runnable ∧ 15 < readyState.cfg.cols.width :=
  ⟨witness_runnable, by decide⟩
/-- Each cause, at its boundary. -/
theorem witness_SetCursorLocationRejects :
    readyState.accepts ∧ ((2 : Int) ≠ 0 ∧ (2 : Int) ≠ 1) ∧ (-1 : Int) < 0 ∧
      (readyState.cfg.cols.width : Int) - 1 < 16 := ⟨witness_accepts, by decide, by decide, by decide⟩
/-- The operations whose first word the statements on waits speak of: one of one word, a text and a position, accepted; and a text
and a position that are not. -/
theorem witness_firstWord :
    firstWord Config.reference .clearDisplay = some (false, 0x01) ∧
      firstWord Config.reference (.printString [0x6C, 0x6F]) = some (true, 0x6C) ∧
      firstWord Config.reference (.setCursorLocation 1 15) = some (false, 0xCF) ∧
      firstWord Config.reference (.printString []) = none ∧
      firstWord Config.reference (.setCursorLocation 0 16) = none := by decide
/-- Each clause, with a controller that never completes and with one that is just too late, at POLL_LIMIT = some 0 (one poll) and
some 3. -/
theorem witness_BoundedWaitRaises :
    (let s : State := { hungState with cfg := { hungState.cfg with pollLimit := some 3 } }
     s.cfg.pollLimit = some 3 ∧ s.settled ∧ firstWord s.cfg (.printString [0x6C]) = some (true, 0x6C) ∧
       lateFor (7 * max 3 1 + 2) s.env.next) ∧
    (let s : State :=
      { readyState with cfg := { readyState.cfg with pollLimit := some 0 }, env := { readyState.env with latencyAfter := some 9 } }
     s.cfg.pollLimit = some 0 ∧ s.settled ∧ firstWord s.cfg (.setCursorLocation 0 0) = some (false, 0x80) ∧
       lateFor (7 * max 0 1 + 2) s.env.next) ∧
    (let s : State := { pendingState (some 6) with cfg := { readyState.cfg with pollLimit := some 1 } }
     s.cfg.pollLimit = some 1 ∧ s.accepts ∧ s.pins.quiescent ∧ s.ctl.bf = true ∧ s.ctl.pend ≠ .none ∧
       lateFor (7 * max 1 1 - 1) s.env.due) ∧
    (let s : State :=
      { State.reset with cfg := { State.reset.cfg with pollLimit := some 2 }, env := { State.reset.env with due := some 14 } }
     s.cfg.pollLimit = some 2 ∧ s.seq = .idle ∧ s.life = .unconfigured ∧ s.env.claimOk = true ∧ s.ctl.bf = true ∧
       s.ctl.pend ≠ .none ∧ lateFor (7 * max 2 1) s.env.due) :=
  ⟨⟨rfl, witness_settled, by decide, fun _ h => by cases h⟩,
    ⟨rfl, witness_settled, by decide, fun _ h => by cases h; decide⟩,
    ⟨rfl, ⟨rfl, rfl⟩, ⟨rfl, rfl, rfl, rfl⟩, rfl, by decide, fun _ h => by cases h; decide⟩,
    rfl, rfl, rfl, rfl, rfl, by decide, fun _ h => by cases h; decide⟩
/-- Each clause. -/
theorem witness_UnansweredOperationWaits :
    (hungState.cfg.pollLimit = none ∧ hungState.settled ∧ hungState.env.next = none ∧
      firstWord hungState.cfg (.printString [0x6C]) = some (true, 0x6C)) ∧
    (let s := pendingState none
     s.cfg.pollLimit = none ∧ s.accepts ∧ s.pins.quiescent ∧ s.ctl.bf = true ∧ s.env.due = none) ∧
    (let s : State := { State.reset with env := { State.reset.env with due := none } }
     s.cfg.pollLimit = none ∧ s.seq = .idle ∧ s.life = .unconfigured ∧ s.env.claimOk = true ∧ s.ctl.bf = true ∧
       s.env.due = none) ∧
    (let s : State :=
      { State.reset with ctl := readyState.ctl, env := { State.reset.env with due := none, latencyAfter := none } }
     s.cfg.pollLimit = none ∧ s.seq = .idle ∧ s.life = .unconfigured ∧ s.env.claimOk = true ∧ s.ctl.bf = false ∧
       s.ctl.pend = .none ∧ s.env.next = none) :=
  ⟨⟨rfl, witness_settled, rfl, by decide⟩, ⟨rfl, ⟨rfl, rfl⟩, ⟨rfl, rfl, rfl, rfl⟩, rfl, rfl⟩,
    ⟨rfl, rfl, rfl, rfl, rfl, rfl⟩, rfl, rfl, rfl, rfl, rfl, rfl, rfl⟩
theorem witness_HangGoesOnForEver :
    let s : State := { pendingState none with seq := .waiting 1 [.executeInstruction false 0x01] }
    s.seq = .waiting 1 [.executeInstruction false 0x01] ∧ s.pins.quiescent ∧ s.cfg.pollLimit = none ∧
      s.env.due = none ∧ s.ctl.bf = true := ⟨rfl, ⟨rfl, rfl, rfl, rfl⟩, rfl, rfl, rfl⟩
theorem witness_UpperTierReturnsSettled :
    readyState.settled ∧ readyState.responsive ∧ upperTier .returnHome = true ∧
      nextMeets (exec .returnHome readyState) (fun _ => true) = true :=
  ⟨witness_settled, witness_responsive, rfl, oneWord_meets readyState_settled rfl rfl (fun _ => rfl) rfl⟩
theorem witness_OneWordOneWrite :
    readyState.runnable ∧ wordOf .returnHome = some (false, 0x02) ∧
      ∀ n, ctlEffect readyState.cfg n false 0x02 readyState.ctl = .ok (ctlReturnHome readyState.ctl) :=
  ⟨witness_runnable, rfl, fun _ => rfl⟩
theorem witness_AddressThenDataStores :
    readyState.settled ∧ readyState.responsive ∧ validCell ((0x67 : Byte).toNat % 128) = true ∧
      nextMeets (exec (.setDdramAddress 0x67) readyState) (fun _ => true) = true :=
  ⟨witness_settled, witness_responsive, by decide, oneWord_meets readyState_settled rfl rfl (fun _ => rfl) rfl⟩
theorem witness_OnlyWritesAndClearStore :
    readyState.settled ∧ nextMeets (exec (.entryModeSet true true) readyState) (fun _ => true) = true :=
  ⟨witness_settled, oneWord_meets readyState_settled rfl rfl (fun _ => rfl) rfl⟩

end Sys2Proof.Tests
end

section
/-! What every step of the machine keeps (spec/10_state.md R10, R11, R19, R25): one relation between a state and what comes after it,
one lemma for each shared operation in the order of their definitions, and the step assembled from them. Then what a step reads,
power-on, the busy result and the data lines (R15, R16, R21, R23, R29). -/

namespace Sys2Proof

/-- R11: no data line is a control pin. -/
theorem PinMap.dataLine_ne_of_wf {m : PinMap} (h : m.wf = true) {i : Nat} (hi : i < 8) :
    ∀ q ∈ [m.rsPin, m.rwPin, m.enPin, m.auxPin], m.dBase + i ≠ q := by
  have line : m.dBase + i ∈ (List.range 8).map (m.dBase + ·) := List.mem_map_of_mem (List.mem_range.mpr hi)
  have apart := List.disjoint_of_nodup_append (of_decide_eq_true h)
  rintro q hq rfl
  exact apart hq line

end Sys2Proof

namespace Sys2Proof.Machine

/-- `t` can come after `s`: the parameters are those of `s`, READY and FAILED stand (R19), and TRACE begins with that of `s` (R25). -/
structure State.Precedes (s t : State) : Prop where
  cfg : t.cfg = s.cfg
  life : s.life ≠ .unconfigured → t.life = s.life
  trace : s.trace <+: t.trace

theorem State.Precedes.trans {s t u : State} (h₁ : s.Precedes t) (h₂ : t.Precedes u) : s.Precedes u where
  cfg := h₂.cfg.trans h₁.cfg
  life h := (h₂.life (h₁.life h ▸ h)).trans (h₁.life h)
  trace := h₁.trace.trans h₂.trace

/-- Events are appended, and neither the parameters nor LIFE is touched. -/
theorem State.Precedes.of_append {s t : State} (evs : List Event) (hc : t.cfg = s.cfg) (hl : t.life = s.life)
    (ht : t.trace = s.trace ++ evs) : s.Precedes t :=
  ⟨hc, fun _ => hl, ht ▸ List.prefix_append _ _⟩

/-- None of the three is touched. -/
theorem State.Precedes.of_eq {s t : State} (hc : t.cfg = s.cfg) (hl : t.life = s.life) (ht : t.trace = s.trace) :
    s.Precedes t :=
  .of_append [] hc hl (by simpa using ht)

theorem State.precedes_finish (r : Ret) (s : State) : s.Precedes (finish r s) := .of_eq rfl rfl rfl

theorem State.precedes_raise (c : Condition) (s : State) : s.Precedes (raise c s) := .of_eq rfl rfl rfl

theorem State.precedes_entered (s : State) : s.Precedes s.entered := .of_eq rfl rfl rfl

/-- Every next state `f` answers comes after the state it was run from. -/
def Advances (f : State → Result) : Prop := ∀ s t : State, f s = .next t → s.Precedes t

theorem advances_next {g : State → State} (h : ∀ s : State, s.Precedes (g s)) : Advances fun s => .next (g s) := by
  rintro s _ ⟨⟩
  exact h s

theorem advances_fault (f : Fault) : Advances fun _ => .fault f := fun _ _ h => by cases h

theorem advances_refused (q : Refusal) : Advances fun _ => .refused q := fun _ _ h => by cases h

theorem Advances.andThen {f k : State → Result} (hf : Advances f) (hk : Advances k) :
    Advances fun s => andThen (f s) k := by
  intro s t h
  obtain ⟨u, hu, ht⟩ := andThen_eq_next h
  exact (hf s u hu).trans (hk u t ht)

theorem Advances.after {f : State → Result} {g : State → State} (hf : Advances f) (hg : ∀ s : State, s.Precedes (g s)) :
    Advances fun s => f (g s) :=
  fun s t h => (hg s).trans (hf (g s) t h)

theorem Advances.ite {p : State → Prop} [DecidablePred p] {f g : State → Result} (hf : Advances f) (hg : Advances g) :
    Advances fun s => if p s then f s else g s := by
  intro s t h
  dsimp only at h
  split at h
  · exact hf s t h
  · exact hg s t h

theorem runAll_advances {fs : List (State → Result)} (h : ∀ f ∈ fs, Advances f) : Advances (runAll fs) := by
  induction fs with
  | nil => exact advances_next fun _ => .of_eq rfl rfl rfl
  | cons f fs ih =>
    obtain ⟨hf, hfs⟩ := List.forall_mem_cons.mp h
    exact hf.andThen (ih hfs)

/-! ### The controller and the primitives -/

theorem ctlGap_advances : Advances ctlGap := by
  intro s t h
  rw [ctlGap_frame h]
  exact .of_eq rfl rfl rfl

/-- An event of the block, after the gap before it. -/
theorem advances_event {g : State → State} (h : ∀ s : State, s.Precedes (g s)) :
    Advances fun s => andThen (ctlGap s) fun s => .next (g s) :=
  ctlGap_advances.andThen (advances_next h)

theorem putRs_advances (b : Bool) : Advances (putRs b) := advances_event fun _ => .of_append _ rfl rfl rfl

theorem putRw_advances (b : Bool) : Advances (putRw b) := advances_event fun _ => .of_append _ rfl rfl rfl

theorem putDir_advances (d : BusDir) : Advances (putDir d) := by
  refine advances_event fun s => ?_
  rw [switched_frame]
  exact .of_append _ rfl rfl rfl

theorem putData_advances (v : Byte) : Advances (putData v) := advances_event fun _ => .of_append _ rfl rfl rfl

theorem delay_advances (k : Wait) : Advances (delay k) := advances_event fun _ => .of_append _ rfl rfl rfl

theorem takeSample_advances : Advances takeSample := by
  refine ctlGap_advances.andThen fun s t h => ?_
  split at h
  · cases h; exact .of_append _ rfl rfl rfl
  · split at h <;> cases h

/-! ### The bus layer -/

theorem setBusDirection_advances (d : BusDir) : Advances (setBusDirection d) :=
  (advances_fault _).ite (putDir_advances d)

theorem writeByte_advances (v : Byte) : Advances (writeByte v) :=
  (advances_refused _).ite ((advances_fault _).ite (putData_advances v))

theorem readByte_advances : Advances readByte := (advances_refused _).ite takeSample_advances

theorem setRegisterSelect_advances (b : Bool) : Advances (setRegisterSelect b) :=
  (advances_fault _).ite (putRs_advances b)

theorem setReadWrite_advances (b : Bool) : Advances (setReadWrite b) := (advances_fault _).ite (putRw_advances b)

/-- Everything a latch can change: the controller and the agents' moves. -/
theorem ctlLatch_frame {rs : Bool} {v : Byte} {s t : State} (h : ctlLatch rs v s = .next t) :
    t = { s with ctl := t.ctl, env := t.env } := by
  unfold ctlLatch at h
  split at h <;> cases h
  rfl

/-- Everything an edge of enable can change: the controller and the agents' moves, where it is latched. -/
theorem enableEdge_frame {old b : Bool} {s t : State} (h : enableEdge old b s = .next t) :
    t = { s with ctl := t.ctl, env := t.env } := by
  unfold enableEdge at h
  split at h
  · split at h
    · cases h
    · exact ctlLatch_frame h
  · split at h <;> cases h
    rfl

theorem setEnable_advances (b : Bool) : Advances (setEnable b) := by
  refine ctlGap_advances.andThen fun s t h => ?_
  rw [enableEdge_frame h]
  exact .of_append [.e b] rfl rfl rfl

theorem pollBusy_advances : Advances pollBusy := by
  refine (advances_fault _).ite (runAll_advances ?_)
  simp only [List.forall_mem_cons]
  exact ⟨setRegisterSelect_advances _, setReadWrite_advances _, setEnable_advances _, delay_advances _, takeSample_advances,
    setEnable_advances _, nofun⟩

/-! ### The busy-wait and the core algorithm -/

theorem busyWait_advances (stack : List Frame) {k : State → Result} (hk : Advances k) (fuel n : Nat) :
    Advances (busyWait stack k fuel n) := by
  have unsampled : ∀ s : State, s.Precedes { s with sample := none } := fun _ => .of_eq rfl rfl rfl
  induction fuel generalizing n with
  | zero => exact advances_next fun _ => .of_eq rfl rfl rfl
  | succ fuel ih =>
    have sleep := (delay_advances .poll).andThen (ih (n + 1))
    exact pollBusy_advances.andThen
      (.ite ((advances_next (State.precedes_raise _)).ite (sleep.after unsampled)) (hk.after unsampled))

theorem writeSequence_advances (rs : Bool) (v : Byte) : Advances (runAll (writeSequence rs v)) := by
  refine runAll_advances ?_
  simp only [writeSequence, List.forall_mem_cons]
  exact ⟨setRegisterSelect_advances _, setReadWrite_advances _, setBusDirection_advances _, writeByte_advances _,
    setEnable_advances _, delay_advances _, setEnable_advances _, setRegisterSelect_advances _, setReadWrite_advances _,
    setBusDirection_advances _, nofun⟩

theorem executeJob_advances (j : Job) {k : State → Result} (hk : Advances k) : Advances (executeJob j k) :=
  have write := (writeSequence_advances j.rs j.byte).after (g := fun s => { s with ibyte := some j.byte })
    fun _ => .of_eq rfl rfl rfl
  have back := hk.after (g := fun s => { s with ibyte := none }) fun _ => .of_eq rfl rfl rfl
  write.andThen fun s => busyWait_advances _ back (pollFuel s) 0 s

theorem sendJobs_advances (js : List Job) (r : Ret) : Advances (sendJobs js r) := by
  induction js with
  | nil => exact advances_next (State.precedes_finish r)
  | cons j js ih => exact executeJob_advances j ih

theorem afterWait_advances (stack : List Frame) : Advances (afterWait stack) :=
  (sendJobs_advances _ _).after (g := fun s => { s with ibyte := none }) fun _ => .of_eq rfl rfl rfl

theorem resume_advances (n : Nat) (stack : List Frame) : Advances (resume n stack) := fun s =>
  busyWait_advances stack (afterWait_advances stack) (pollFuel s) n s

/-! ### Calls and the step -/

theorem call_advances {k : State → Result} (hk : Advances k) : Advances (call k) := by
  intro s t h
  exact s.precedes_entered.trans (hk s.entered t (call_eq_next h).2)

theorem returning_advances (r : State → Ret) {f : State → Result} (hf : Advances f) :
    Advances fun s => returning r (f s) :=
  hf.andThen (advances_next fun s => State.precedes_finish (r s) s)

/-- `configure` moves LIFE, but only from UNCONFIGURED. -/
theorem callFirst_configureThen_advances {k : State → Result} (hk : Advances k) :
    Advances (callFirst (configureThen k)) := by
  intro s t h
  obtain ⟨-, hl, hc⟩ := callFirst_eq_next h
  obtain ⟨u, hu, ht⟩ := andThen_eq_next hc
  have hsu : s.Precedes u := s.precedes_entered.trans (ctlGap_advances s.entered u hu)
  have claimed : ∀ v : State, v.cfg = u.cfg → u.trace <+: v.trace → s.Precedes v := fun v hc hv =>
    ⟨hc.trans hsu.cfg, fun h => absurd hl h, hsu.trace.trans hv⟩
  split at ht
  · exact (claimed (configured u) rfl (List.prefix_append _ _)).trans (hk _ t ht)
  · cases ht
    exact claimed _ rfl (List.prefix_append _ _)

theorem exec_advances (i : Instr) : Advances (exec i) := by
  cases i with
  | wClearDisplay | wReturnHome | wEntryModeSet | wDisplayControl | wCursorOrDisplayShift | wFunctionSet | wSetDdramAddress
  | wWriteCharacter | executeInstruction | clearDisplay | returnHome | entryModeSet | displayControl | cursorOrDisplayShift
  | functionSet | setDdramAddress | writeCharacter =>
    exact call_advances (sendJobs_advances _ _)
  | wReadStatus | pollBusy => exact call_advances (returning_advances _ pollBusy_advances)
  | configure => exact callFirst_configureThen_advances (advances_next (State.precedes_finish _))
  | setBusDirection d => exact call_advances (returning_advances _ (setBusDirection_advances d))
  | writeByte v => exact call_advances (returning_advances _ (writeByte_advances v))
  | readByte => exact call_advances (returning_advances _ readByte_advances)
  | setRegisterSelect b => exact call_advances (returning_advances _ (setRegisterSelect_advances b))
  | setReadWrite b => exact call_advances (returning_advances _ (setReadWrite_advances b))
  | setEnable b => exact call_advances (returning_advances _ (setEnable_advances b))
  | waitNotBusy =>
    exact call_advances fun s => busyWait_advances [] (advances_next (State.precedes_finish _)) (pollFuel s) 0 s
  | setCgramAddress | readCharacter => exact call_advances (advances_next (State.precedes_finish _))
  | initialise =>
    exact callFirst_configureThen_advances fun s => busyWait_advances _ (sendJobs_advances _ _) (pollFuel s) 0 s
  | printString text =>
    exact call_advances (.ite (p := fun s => textAccepted s.cfg text) (sendJobs_advances _ _)
      (advances_next (State.precedes_raise _)))
  | setCursorLocation row column =>
    exact call_advances (.ite (p := fun s => cursorAccepted s.cfg row column) (sendJobs_advances _ _)
      (advances_next (State.precedes_raise _)))

/-- What a call that has an instruction is read as. -/
theorem fetchCall_eq_ok {c : Call} {rest : List Call} {s t : State} {i : Instr} :
    fetchCall c rest s = .ok (i, t) ↔ decode c = .ok i ∧ t = { s with calls := rest } := by
  unfold fetchCall
  cases decode c <;> simp [eq_comm]

/-- Everything a step can be: a busy-wait that goes on, the controller's gap where there is no call, or HOST's next call. -/
theorem step_eq_next {s t : State} (h : step s = .next t) :
    (∃ n stack, s.seq = .waiting n stack ∧ resume n stack s = .next t) ∨
    (s.seq = .idle ∧ s.calls = [] ∧ ctlGap s = .next t) ∨
    (∃ c rest i, s.seq = .idle ∧ s.calls = c :: rest ∧ decode c = .ok i ∧ exec i { s with calls := rest } = .next t) := by
  unfold step at h
  split at h
  case h_1 n stack hs => exact .inl ⟨n, stack, hs, h⟩
  case h_2 hs hc => exact .inr (.inl ⟨hs, hc, h⟩)
  case h_3 c rest hs hc =>
    split at h
    · obtain ⟨hd, rfl⟩ := fetchCall_eq_ok.mp ‹_›
      exact .inr (.inr ⟨c, rest, _, hs, hc, hd, h⟩)
    · cases h

theorem step_advances : Advances step := by
  intro s t h
  obtain ⟨n, stack, -, hr⟩ | ⟨-, -, hg⟩ | ⟨c, rest, i, -, -, -, hx⟩ := step_eq_next h
  · exact resume_advances n stack s t hr
  · exact ctlGap_advances s t hg
  · have taken : s.Precedes { s with calls := rest } := .of_eq rfl rfl rfl
    exact taken.trans (exec_advances i _ t hx)

/-- Settles O13: a step leads from a state to one that comes after it. -/
theorem stepKeepsParameters : Obligations.StepKeepsParameters := fun s t h => (step_advances s t h).cfg

/-- Settles O14: LIFE moves only from UNCONFIGURED. -/
theorem lifecycleNeverGoesBack : Obligations.LifecycleNeverGoesBack := by
  intro s t h
  have hl := (step_advances s t h).life
  exact ⟨fun hr => (hl (by simp [hr])).trans hr, fun hf => (hl (by simp [hf])).trans hf⟩

/-- Settles O15: TRACE after a step begins with TRACE before it. -/
theorem traceOnlyGrows : Obligations.TraceOnlyGrows := by
  intro s t h
  obtain ⟨evs, he⟩ := (step_advances s t h).trace
  exact ⟨evs, he.symm⟩

/-! ### HOST's next call and power-on -/

/-- The step runs the instruction of HOST's next call. -/
theorem step_of_call {s : State} {c : Call} {rest : List Call} {i : Instr} (hs : s.seq = .idle)
    (hc : s.calls = c :: rest) (hd : decode c = .ok i) : step s = exec i { s with calls := rest } := by
  simp only [step, hs, hc, fetchCall_eq_ok.mpr ⟨hd, rfl⟩]

theorem decodeTableWord_eq_some {nbits w : Nat} {i : Instr} :
    decodeTableWord nbits w = some i ↔ decode (tableCall nbits w) = .ok i := by
  unfold decodeTableWord
  cases decode (tableCall nbits w) <;> simp

/-- Settles O7: `withFetchWord` puts the table's call at the head of the list. -/
theorem stepRunsDecodedCall : Obligations.StepRunsDecodedCall :=
  ⟨fun _ _ _ _ hs hc hd => step_of_call hs hc hd,
    fun s nbits w _ h => step_of_call (s := s.withFetchWord nbits w) rfl rfl (decodeTableWord_eq_some.mp h)⟩

/-- Settles O10: each value is written out in `State.reset`. -/
theorem powerOnValues : Obligations.PowerOnValues := ⟨rfl, rfl, rfl, rfl, rfl⟩

/-- Settles O11: at power-on the memory and TRACE are empty, the power-on word is pending, and LIFE and SEQ are where the other
clauses do not apply. -/
theorem resetMeetsInvariant : Obligations.ResetMeetsInvariant where
  memory := Memory.wf_nil
  busyIffPending := by decide
  untouched _ := rfl
  busSafe := rfl
  latches := nofun
  oneDriver := nofun
  waiting h := absurd rfl h

/-! ### The busy result and the data lines -/

/-- Settles O30: bit 7 is the top bit of a byte. -/
theorem busyIffAtLeast128 : Obligations.BusyIffAtLeast128 := by
  intro v
  have top : busy v = v.msb := (BitVec.msb_eq_getLsbD_last v).symm
  rw [top, BitVec.msb_eq_decide, decide_eq_true_eq]

/-- Settles O31: the pin is none of the four control pins and is the data line `i`. -/
theorem dataLinesCarryDout : Obligations.DataLinesCarryDout := by
  intro s i hwf hi
  have control := PinMap.dataLine_ne_of_wf hwf hi
  simp only [List.forall_mem_cons] at control
  obtain ⟨hrs, hrw, hen, haux, -⟩ := control
  simp [State.pinLevel, hrs, hrw, hen, haux, hi]

end Sys2Proof.Machine
end

section
/-! An operation of the api or instr tier returns to a quiescent bus and an idle controller (spec/10_state.md R26, spec/20_memory.md
R66): each is a list of instructions, and each instruction leads from a settled state to a settled state. -/

namespace Sys2Proof.Machine

/-- Whether the effect of a word is a fault is settled by the word, whatever values are drawn. -/
theorem ctlEffect_uniform (cfg : Config) (rs : Bool) (v : Byte) (C : Ctl) :
    (∃ e : Nat → Ctl, ∀ n, ctlEffect cfg n rs v C = .ok (e n)) ∨ ∃ f, ∀ n, ctlEffect cfg n rs v C = .error f := by
  unfold ctlEffect
  cases latchedCommand rs v with
  | noCommand => exact .inr ⟨_, fun _ => rfl⟩
  | functionSet dl n f =>
    cases dl with
    | false => exact .inr ⟨_, fun _ => rfl⟩
    | true => exact .inl ⟨_, fun _ => rfl⟩
  | unspecified => exact .inl ⟨fun n => ctlAnyEffect n C, fun _ => rfl⟩
  | clearDisplay | returnHome | entryModeSet | displayControl | shift | setDdramAddress | character =>
    exact .inl ⟨_, fun _ => rfl⟩

/-- A responsive controller completes the next word. -/
theorem State.responsive.next {s : State} (h : s.responsive) : ∃ d, s.env.next = some d := by
  obtain ⟨-, hlat, hafter⟩ := h
  apply Option.ne_none_iff_exists'.mp
  unfold Env.next
  split
  · exact hafter
  · next d ds hd => exact hlat d (by simp [hd])

theorem State.responsive.executed {s : State} (h : s.responsive) (rs : Bool) (v : Byte) (j inc : Nat) {c : Ctl}
    (hc : c.pend = .none) : (s.executed rs v j inc c).responsive := by
  obtain ⟨-, hlat, hafter⟩ := h
  exact ⟨fun hp => absurd hc hp, fun d hd => hlat d (List.mem_of_mem_tail hd), hafter⟩

theorem State.settled.executed {s : State} (h : s.settled) (rs : Bool) (v : Byte) (j inc : Nat) {c : Ctl}
    (hb : c.bf = false) (hp : c.pend = .none) : (s.executed rs v j inc c).settled :=
  ⟨h.1, executed_quiescent s rs v j inc c, hb, hp⟩

theorem State.settled.finish {s : State} (h : s.settled) (r : Ret) : (finish r s).settled := by
  obtain ⟨⟨hl, -⟩, hq, hb, hp⟩ := h
  exact ⟨⟨hl, rfl⟩, hq, hb, hp⟩

/-- A sequence of instructions from a settled state, with a responsive controller in the reference design, returns settled. -/
theorem sendJobs_settled {js : List Job} {r : Ret} {s t : State} (hs : s.settled) (hlim : s.cfg.pollLimit = none)
    (hr : s.responsive) (h : sendJobs js r s = .next t) : t.settled := by
  induction js generalizing s with
  | nil => cases h; exact hs.finish r
  | cons j js ih =>
    rw [sendJobs] at h
    have ⟨_, hq, hb, hp⟩ := hs
    obtain ⟨d, hd⟩ := hr.next
    obtain ⟨e, he⟩ | ⟨f, hf⟩ := ctlEffect_uniform s.cfg j.rs j.byte s.ctl
    · obtain ⟨p, hx⟩ := executeJob_completes (fun s => sendJobs js r s) he hlim hq hp hb hd
      rw [hx] at h
      exact ih (s := s.executed _ _ _ _ (ctlDone (e _))) (hs.executed _ _ _ _ rfl rfl) hlim (hr.executed _ _ _ _ rfl) h
    · rw [executeJob_faults _ hf hlim hq hp hb hd] at h
      cases h

/-- An operation of the upper tiers that a configured block answers is a sequence of instructions; a stub and a rejected call are
the empty one, and R150's operation is refused on a configured block. -/
theorem exec_upperTier_eq_sendJobs {s t : State} {i : Instr} (ha : s.accepts) (hi : upperTier i = true)
    (h : exec i s = .next t) : ∃ js r, sendJobs js r s.entered = .next t := by
  cases i with
  | clearDisplay | returnHome | entryModeSet | displayControl | cursorOrDisplayShift | functionSet | setDdramAddress
  | writeCharacter =>
    exact ⟨_, _, (call_eq_next h).2⟩
  | setCgramAddress => exact ⟨[], .ok, (call_eq_next (k := sendJobs [] .ok) h).2⟩
  | readCharacter => exact ⟨[], .byte 0, (call_eq_next (k := sendJobs [] (.byte 0)) h).2⟩
  | initialise =>
    obtain ⟨-, hl, -⟩ := callFirst_eq_next h
    exact absurd (ha.1.symm.trans hl) (by decide)
  | printString text =>
    rw [exec, execPrintString] at h
    have hk := (call_eq_next h).2
    split at hk
    · exact ⟨_, _, hk⟩
    · exact ⟨[], _, hk⟩
  | setCursorLocation row column =>
    rw [exec, execSetCursorLocation] at h
    have hk := (call_eq_next h).2
    split at hk
    · exact ⟨_, _, hk⟩
    · exact ⟨[], _, hk⟩
  | _ => cases hi

/-- Settles O57, by induction on the instructions of the operation. -/
theorem upperTierReturnsSettled : Obligations.UpperTierReturnsSettled := by
  intro s t i hs hlim hr hi h
  obtain ⟨js, r, hj⟩ := exec_upperTier_eq_sendJobs hs.1 hi h
  exact sendJobs_settled (s := s.entered) hs hlim hr hj

end Sys2Proof.Machine
end

section
/-! What an operation can do, as small steps of the block and the controller (spec/10_state.md R24, spec/20_memory.md R52, R53): one
relation, and every operation a run of it that leaves a busy-wait only on a quiescent bus (R26). Each invariant of the machine is
then a fact about one small step. -/

namespace Sys2Proof.Machine

/-- An event of the bus layer that raises no fault, from the pins before it to the pins after it (R102 to R108). -/
inductive PinMove (p : Pins) : Event → Pins → Prop where
  | rs (b : Bool) (low : p.e = false) : PinMove p (.rs b) { p with rs := b }
  | rw (b : Bool) (low : p.e = false) : PinMove p (.rw b) { p with rw := b }
  | dir (d : BusDir) (v : Byte) (low : p.e = false) (drawn : v = p.dout ∨ (p.dir = .input ∧ d = .output)) :
    PinMove p (.dir d) { p with dir := d, dout := v }
  | data (v : Byte) (low : p.e = false) : PinMove p (.data v) { p with dout := v }
  | enable (b : Bool) (free : ¬ (p.e = false ∧ b = true ∧ p.rw = true ∧ p.dir = .output)) :
    PinMove p (.e b) { p with e := b }
  | sample (v : Byte) : PinMove p (.sample v) p
  | delay (k : Wait) : PinMove p (.delay k) p

/-- One small step on a configured block where only words of `W` are latched: a change of what neither the bus nor the controller
sees, the controller's gap, an event, or a latch. -/
inductive SmallStep (W : Bool → Byte → Prop) (s t : State) : Prop where
  | silent (life : t.life = s.life) (pins : t.pins = s.pins) (trace : t.trace = s.trace) (ctl : t.ctl = s.ctl)
  | gap (h : ctlGap s = .next t)
  | event (ev : Event) (life : t.life = s.life) (ctl : t.ctl = s.ctl) (trace : t.trace = s.trace ++ [ev])
    (move : PinMove s.pins ev t.pins)
  | latch (rs : Bool) (v : Byte) (word : W rs v) (h : ctlLatch rs v s = .next t)

/-- `t` is reached from `s` by small steps. -/
abbrev State.Reaches (s : State) (W : Bool → Byte → Prop) (t : State) : Prop := Relation.ReflTransGen (SmallStep W) s t

/-- A busy-wait stands only on a quiescent bus. -/
def State.rests (s : State) : Prop := s.seq ≠ .idle → s.pins.quiescent

theorem State.rests_finish (r : Ret) (s : State) : (finish r s).rests := fun h => absurd rfl h

variable {W : Bool → Byte → Prop} {s t : State}

theorem State.Reaches.of_eq (life : t.life = s.life) (pins : t.pins = s.pins) (trace : t.trace = s.trace)
    (ctl : t.ctl = s.ctl) : s.Reaches W t := .single (.silent life pins trace ctl)

theorem State.Reaches.of_silent {u : State} (h : u.Reaches W t) (life : u.life = s.life) (pins : u.pins = s.pins)
    (trace : u.trace = s.trace) (ctl : u.ctl = s.ctl) : s.Reaches W t := .head (.silent life pins trace ctl) h

theorem State.reaches_entered (s : State) : s.Reaches W s.entered := .of_eq rfl rfl rfl rfl

theorem State.reaches_finish (r : Ret) (s : State) : s.Reaches W (finish r s) := .of_eq rfl rfl rfl rfl

/-! ### The pins after an event -/

section Pins

variable {p q : Pins}

theorem PinMove.of_rs {b : Bool} (h : PinMove p (.rs b) q) : q = { p with rs := b } := by cases h; rfl

theorem PinMove.of_rw {b : Bool} (h : PinMove p (.rw b) q) : q = { p with rw := b } := by cases h; rfl

theorem PinMove.of_dir {d : BusDir} (h : PinMove p (.dir d) q) : q = { p with dir := d, dout := q.dout } := by cases h; rfl

theorem PinMove.of_data {v : Byte} (h : PinMove p (.data v) q) : q = { p with dout := v } := by cases h; rfl

theorem PinMove.of_e {b : Bool} (h : PinMove p (.e b) q) : q = { p with e := b } := by cases h; rfl

theorem PinMove.of_delay {k : Wait} (h : PinMove p (.delay k) q) : q = p := by cases h; rfl

end Pins

/-! ### The bus layer: each operation that answers is small steps, its last event among them -/

theorem eq_next_of_unless_fault {c : Prop} [Decidable c] {f : Fault} {x : Result} (h : (if c then .fault f else x) = .next t) :
    ¬ c ∧ x = .next t := by
  split at h
  · cases h
  · exact ⟨‹_›, h⟩

theorem eq_next_of_unless_refused {c : Prop} [Decidable c] {q : Refusal} {x : Result}
    (h : (if c then .refused q else x) = .next t) : ¬ c ∧ x = .next t := by
  split at h
  · cases h
  · exact ⟨‹_›, h⟩

theorem ctlGap_pins {u : State} (h : ctlGap s = .next u) : u.pins = s.pins := by rw [ctlGap_frame h]

/-- The controller's gap, and after it an event. -/
theorem reaches_of_event {u : State} {ev : Event} (hu : ctlGap s = .next u) (life : t.life = u.life) (ctl : t.ctl = u.ctl)
    (trace : t.trace = u.trace ++ [ev]) (move : PinMove u.pins ev t.pins) : s.Reaches W t ∧ PinMove s.pins ev t.pins :=
  ⟨.tail (.single (.gap hu)) (.event ev life ctl trace move), ctlGap_pins hu ▸ move⟩

theorem setRegisterSelect_reaches {b : Bool} (h : setRegisterSelect b s = .next t) :
    s.Reaches W t ∧ PinMove s.pins (.rs b) t.pins := by
  obtain ⟨low, h⟩ := eq_next_of_unless_fault h
  obtain ⟨u, hu, ⟨⟩⟩ := andThen_eq_next h
  exact reaches_of_event hu rfl rfl rfl (.rs b (by simpa [ctlGap_pins hu] using low))

theorem setReadWrite_reaches {b : Bool} (h : setReadWrite b s = .next t) :
    s.Reaches W t ∧ PinMove s.pins (.rw b) t.pins := by
  obtain ⟨low, h⟩ := eq_next_of_unless_fault h
  obtain ⟨u, hu, ⟨⟩⟩ := andThen_eq_next h
  exact reaches_of_event hu rfl rfl rfl (.rw b (by simpa [ctlGap_pins hu] using low))

/-- DOUT is drawn only where DIR becomes OUTPUT (R16). -/
theorem switched_dout (d : BusDir) (s : State) :
    (switched d s).pins.dout = s.pins.dout ∨ (s.pins.dir = .input ∧ d = .output) := by
  unfold switched
  split
  · next h => exact .inr h
  · exact .inl rfl

theorem setBusDirection_reaches {d : BusDir} (h : setBusDirection d s = .next t) :
    s.Reaches W t ∧ PinMove s.pins (.dir d) t.pins := by
  obtain ⟨low, h⟩ := eq_next_of_unless_fault h
  obtain ⟨u, hu, ⟨⟩⟩ := andThen_eq_next h
  have move := PinMove.dir d _ (by simpa [ctlGap_pins hu] using low) (switched_dout d u)
  rw [switched_frame]
  exact reaches_of_event hu rfl rfl rfl move

theorem writeByte_reaches {v : Byte} (h : writeByte v s = .next t) : s.Reaches W t ∧ PinMove s.pins (.data v) t.pins := by
  obtain ⟨-, h⟩ := eq_next_of_unless_refused h
  obtain ⟨low, h⟩ := eq_next_of_unless_fault h
  obtain ⟨u, hu, ⟨⟩⟩ := andThen_eq_next h
  exact reaches_of_event hu rfl rfl rfl (.data v (by simpa [ctlGap_pins hu] using low))

theorem delay_reaches {k : Wait} (h : delay k s = .next t) : s.Reaches W t ∧ PinMove s.pins (.delay k) t.pins := by
  obtain ⟨u, hu, ⟨⟩⟩ := andThen_eq_next h
  exact reaches_of_event hu rfl rfl rfl (.delay k)

theorem takeSample_reaches (h : takeSample s = .next t) : s.Reaches W t ∧ t.pins = s.pins := by
  obtain ⟨u, hu, h⟩ := andThen_eq_next h
  split at h
  · cases h
    have sampled := reaches_of_event (W := W)
      (t := { u with sample := some (lineLevel u), draws := u.draws + 1 }.log (.sample (lineLevel u))) hu rfl rfl rfl (.sample _)
    exact ⟨sampled.1, (ctlGap_pins hu :)⟩
  · split at h <;> cases h

theorem readByte_reaches (h : readByte s = .next t) : s.Reaches W t :=
  (takeSample_reaches (eq_next_of_unless_refused h).2).1

/-- R108: an edge of enable that answers latches the word on the pins where it ends a write pulse, and starts no contention. -/
theorem enableEdge_eq_next {old b : Bool} (h : enableEdge old b s = .next t) :
    ¬ (old = false ∧ b = true ∧ s.pins.rw = true ∧ s.pins.dir = .output) ∧
      (t = s ∨ (old = true ∧ b = false ∧ s.pins.rw = false) ∧ ctlLatch s.pins.rs s.pins.dout s = .next t) := by
  unfold enableEdge at h
  split at h
  · next falls =>
    obtain ⟨-, h⟩ := eq_next_of_unless_fault h
    have falls : (old = true ∧ b = false) ∧ s.pins.rw = false := by simpa using falls
    exact ⟨by simp [falls], .inr ⟨by simp [falls], h⟩⟩
  · obtain ⟨free, ⟨⟩⟩ := eq_next_of_unless_fault h
    exact ⟨by simpa [and_assoc] using free, .inl rfl⟩

/-- `set_enable` is its event, and a latch where that ends a write pulse. -/
theorem setEnable_reaches {b : Bool} (h : setEnable b s = .next t)
    (hw : s.pins.e = true → b = false → s.pins.rw = false → W s.pins.rs s.pins.dout) :
    s.Reaches W t ∧ PinMove s.pins (.e b) t.pins := by
  obtain ⟨u, hu, h⟩ := andThen_eq_next h
  obtain ⟨free, hl⟩ := enableEdge_eq_next h
  have raised := reaches_of_event (W := W) (t := { u with pins := { u.pins with e := b } }.log (.e b)) hu rfl rfl rfl
    (.enable b free)
  obtain rfl | ⟨⟨he, hb, hrw⟩, hl⟩ := hl
  · exact raised
  · have word : W u.pins.rs u.pins.dout := by
      rw [ctlGap_pins hu] at he ⊢
      exact hw he hb (ctlGap_pins hu ▸ hrw)
    refine ⟨raised.1.tail (.latch _ _ word hl), ?_⟩
    rw [ctlLatch_frame hl]
    exact raised.2

theorem runAll_cons_eq_next {f : State → Result} {fs : List (State → Result)} :
    runAll (f :: fs) s = .next t ↔ ∃ u, f s = .next u ∧ runAll fs u = .next t := by
  refine ⟨andThen_eq_next, fun ⟨u, hu, ht⟩ => ?_⟩
  rw [runAll_cons, hu, andThen_next, ht]

/-- A poll latches nothing, since it reads, and leaves the bus quiescent. -/
theorem pollBusy_reaches (h : pollBusy s = .next t) : s.Reaches W t ∧ t.pins.quiescent := by
  obtain ⟨hd, h⟩ := eq_next_of_unless_fault h
  simp only [runAll_cons_eq_next, runAll_nil] at h
  obtain ⟨s₁, h₁, s₂, h₂, s₃, h₃, s₄, h₄, s₅, h₅, s₆, h₆, ⟨⟩⟩ := h
  obtain ⟨r₁, m₁⟩ := setRegisterSelect_reaches (W := W) h₁
  obtain ⟨r₂, m₂⟩ := setReadWrite_reaches (W := W) h₂
  obtain ⟨r₃, m₃⟩ := setEnable_reaches (W := W) h₃ (by simp)
  obtain ⟨r₄, m₄⟩ := delay_reaches (W := W) h₄
  obtain ⟨r₅, m₅⟩ := takeSample_reaches (W := W) h₅
  have hp : s₅.pins = { s.pins with rs := false, rw := true, e := true } := by
    rw [m₅, m₄.of_delay, m₃.of_e, m₂.of_rw, m₁.of_rs]
  obtain ⟨r₆, m₆⟩ := setEnable_reaches (W := W) h₆ (by simp [hp])
  refine ⟨r₁.trans (r₂.trans (r₃.trans (r₄.trans (r₅.trans r₆)))), ?_⟩
  rw [m₆.of_e, hp]
  exact ⟨rfl, rfl, rfl, by simpa using fun hn => hd (.inl hn)⟩

/-- Steps 1 to 5 of R120 latch the word, and leave the bus quiescent. -/
theorem writeSequence_reaches {rs : Bool} {v : Byte} (hw : W rs v) (h : runAll (writeSequence rs v) s = .next t) :
    s.Reaches W t ∧ t.pins.quiescent := by
  simp only [writeSequence, runAll_cons_eq_next, runAll_nil] at h
  obtain ⟨s₁, h₁, s₂, h₂, s₃, h₃, s₄, h₄, s₅, h₅, s₆, h₆, s₇, h₇, s₈, h₈, s₉, h₉, s₁₀, h₁₀, ⟨⟩⟩ := h
  obtain ⟨r₁, m₁⟩ := setRegisterSelect_reaches (W := W) h₁
  obtain ⟨r₂, m₂⟩ := setReadWrite_reaches (W := W) h₂
  obtain ⟨r₃, m₃⟩ := setBusDirection_reaches (W := W) h₃
  obtain ⟨r₄, m₄⟩ := writeByte_reaches (W := W) h₄
  obtain ⟨r₅, m₅⟩ := setEnable_reaches (W := W) h₅ (by simp)
  obtain ⟨r₆, m₆⟩ := delay_reaches (W := W) h₆
  have hp : s₆.pins = { s.pins with rs := rs, rw := false, e := true, dir := .output, dout := v } := by
    rw [m₆.of_delay, m₅.of_e, m₄.of_data, m₃.of_dir, m₂.of_rw, m₁.of_rs]
  obtain ⟨r₇, m₇⟩ := setEnable_reaches (W := W) h₇ (fun _ _ _ => by rw [hp]; exact hw)
  obtain ⟨r₈, m₈⟩ := setRegisterSelect_reaches (W := W) h₈
  obtain ⟨r₉, m₉⟩ := setReadWrite_reaches (W := W) h₉
  obtain ⟨r₁₀, m₁₀⟩ := setBusDirection_reaches (W := W) h₁₀
  refine ⟨r₁.trans (r₂.trans (r₃.trans (r₄.trans (r₅.trans (r₆.trans (r₇.trans (r₈.trans (r₉.trans r₁₀)))))))), ?_⟩
  rw [m₁₀.of_dir, m₉.of_rw, m₈.of_rs, m₇.of_e]
  exact ⟨rfl, rfl, rfl, rfl⟩

/-! ### The operations -/

/-- Whatever next state `f` answers is reached by small steps, and a wait it leaves stands on a quiescent bus. -/
def Operates (W : Bool → Byte → Prop) (f : State → Result) : Prop :=
  ∀ s t : State, f s = .next t → s.Reaches W t ∧ t.rests

theorem operates_finish (r : Ret) : Operates W fun s => .next (finish r s) := by
  rintro s _ ⟨⟩
  exact ⟨s.reaches_finish r, s.rests_finish r⟩

theorem operates_raise (c : Condition) : Operates W fun s => .next (raise c s) := operates_finish _

theorem Operates.unsampled {k : State → Result} (hk : Operates W k) : Operates W fun s => k { s with sample := none } := by
  intro s t h
  obtain ⟨hr, ht⟩ := hk _ t h
  exact ⟨hr.of_silent rfl rfl rfl rfl, ht⟩

theorem Operates.unlatched {k : State → Result} (hk : Operates W k) : Operates W fun s => k { s with ibyte := none } := by
  intro s t h
  obtain ⟨hr, ht⟩ := hk _ t h
  exact ⟨hr.of_silent rfl rfl rfl rfl, ht⟩

theorem Operates.ite {p : State → Prop} [DecidablePred p] {f g : State → Result} (hf : Operates W f) (hg : Operates W g) :
    Operates W fun s => if p s then f s else g s := by
  intro s t h
  dsimp only at h
  split at h
  · exact hf s t h
  · exact hg s t h

/-- A bus-layer operation called by HOST. -/
theorem returning_operates (r : State → Ret) {f : State → Result} (hf : ∀ s t : State, f s = .next t → s.Reaches W t) :
    Operates W fun s => returning r (f s) := by
  intro s t h
  obtain ⟨u, hu, ⟨⟩⟩ := andThen_eq_next h
  exact ⟨(hf s u hu).trans (u.reaches_finish _), u.rests_finish _⟩

/-- R122: the wait stops between two polls, on the quiescent bus the last one left. -/
theorem busyWait_operates (stack : List Frame) {k : State → Result} (hk : Operates W k) :
    ∀ (fuel n : Nat) (s t : State), (fuel = 0 → s.pins.quiescent) → busyWait stack k fuel n s = .next t →
      s.Reaches W t ∧ t.rests := by
  intro fuel
  induction fuel with
  | zero =>
    rintro n s _ hq ⟨⟩
    exact ⟨.of_eq rfl rfl rfl rfl, fun _ => hq rfl⟩
  | succ fuel ih =>
    intro n s t _ h
    obtain ⟨u, hu, h⟩ := andThen_eq_next h
    obtain ⟨polled, hq⟩ := pollBusy_reaches (W := W) hu
    have again : ∀ t, andThen (delay .poll { u with sample := none }) (busyWait stack k fuel (n + 1)) = .next t →
        u.Reaches W t ∧ t.rests := by
      intro t h
      obtain ⟨x, hx, h⟩ := andThen_eq_next h
      obtain ⟨slept, still⟩ := delay_reaches (W := W) hx
      obtain ⟨waited, hr⟩ := ih (n + 1) x t (fun _ => still.of_delay ▸ hq) h
      exact ⟨State.Reaches.of_silent (slept.trans waited) rfl rfl rfl rfl, hr⟩
    have rest : u.Reaches W t ∧ t.rests := by
      split at h
      · split at h
        · exact operates_raise _ u t h
        · exact again t h
      · exact hk.unsampled u t h
    exact ⟨polled.trans rest.1, rest.2⟩

theorem pollFuel_ne_zero (s : State) : pollFuel s ≠ 0 := Nat.succ_ne_zero _

theorem busyWait_pollFuel_operates (stack : List Frame) {k : State → Result} (hk : Operates W k) (n : Nat) :
    Operates W fun s => busyWait stack k (pollFuel s) n s :=
  fun s t h => busyWait_operates stack hk _ n s t (fun h0 => absurd h0 (pollFuel_ne_zero s)) h

theorem executeJob_operates {j : Job} (hw : W j.rs j.byte) {k : State → Result} (hk : Operates W k) :
    Operates W (executeJob j k) := by
  intro s t h
  obtain ⟨u, hu, h⟩ := andThen_eq_next h
  have wrote := (writeSequence_reaches hw hu).1
  obtain ⟨waited, hr⟩ := busyWait_pollFuel_operates _ hk.unlatched 0 u t h
  exact ⟨State.Reaches.of_silent (wrote.trans waited) rfl rfl rfl rfl, hr⟩

theorem sendJobs_operates {js : List Job} (hw : ∀ j ∈ js, W j.rs j.byte) (r : Ret) : Operates W (sendJobs js r) := by
  induction js with
  | nil => exact operates_finish r
  | cons j js ih =>
    obtain ⟨hj, hjs⟩ := List.forall_mem_cons.mp hw
    exact executeJob_operates hj (ih hjs)

theorem resume_operates (n : Nat) {stack : List Frame} (hw : ∀ j ∈ (remaining stack).1, W j.rs j.byte) :
    Operates W (resume n stack) :=
  busyWait_pollFuel_operates stack (k := afterWait stack) (sendJobs_operates hw _).unlatched n

/-- A call the block accepts. -/
theorem call_operates {k : State → Result} (hk : Operates W k) (h : call k s = .next t) :
    s.accepts ∧ s.Reaches W t ∧ t.rests := by
  obtain ⟨ha, h⟩ := call_eq_next h
  obtain ⟨hr, ht⟩ := hk _ t h
  exact ⟨ha, s.reaches_entered.trans hr, ht⟩

/-- An operation that sends one word is one run of R120 with it. -/
theorem exec_eq_call_of_wordOf {i : Instr} {rs : Bool} {v : Byte} (h : wordOf i = some (rs, v)) :
    ∃ ps, ∀ s, exec i s = call (sendJobs [⟨ps, rs, v⟩] .nothing) s := by
  cases i with
  | wClearDisplay | wReturnHome | wEntryModeSet | wDisplayControl | wCursorOrDisplayShift | wFunctionSet | wSetDdramAddress
  | wWriteCharacter | executeInstruction | clearDisplay | returnHome | entryModeSet | displayControl | cursorOrDisplayShift
  | functionSet | setDdramAddress | writeCharacter =>
    cases h
    exact ⟨_, fun _ => rfl⟩
  | _ => cases h

/-- The words an operation may send, besides what a raw `set_enable` latches. -/
def sentWords : Instr → List (Bool × Byte)
  | .printString text => (printJobs text).map fun j => (j.rs, j.byte)
  | .setCursorLocation row column => [(false, ddramAddressByte (cursorAddress row column))]
  | .initialise n c b => (initJobs n c b).map fun j => (j.rs, j.byte)
  | i => (wordOf i).toList

theorem configureThen_operates {k : State → Result} (hk : Operates W k) (h : callFirst (configureThen k) s = .next t) :
    s.life = .unconfigured ∧ ∃ u, ctlGap s.entered = .next u ∧
      ((configured u).Reaches W t ∧ t.rests ∨ t = raise .pinClaimFailure (claimFailed u)) := by
  obtain ⟨-, hl, h⟩ := callFirst_eq_next h
  obtain ⟨u, hu, h⟩ := andThen_eq_next h
  refine ⟨hl, u, hu, ?_⟩
  split at h
  · exact .inl (hk _ t h)
  · cases h; exact .inr rfl

/-- Everything an operation that answers a next state has done: small steps from a block that accepts it, which latch only the
words it sends or, for a raw `set_enable`, the word on the pins; or `configure` on a block that is not configured (R101), and what
R150 has after it. -/
theorem exec_reaches {i : Instr} (hw : ∀ w ∈ sentWords i, W w.1 w.2) (he : s.pins.e = true → W s.pins.rs s.pins.dout)
    (h : exec i s = .next t) :
    (s.accepts ∧ s.Reaches W t ∧ t.rests) ∨
    (s.life = .unconfigured ∧ ∃ u, ctlGap s.entered = .next u ∧
      ((configured u).Reaches W t ∧ t.rests ∨ t = raise .pinClaimFailure (claimFailed u))) := by
  cases i with
  | wClearDisplay | wReturnHome | wEntryModeSet | wDisplayControl | wCursorOrDisplayShift | wFunctionSet | wSetDdramAddress
  | wWriteCharacter | executeInstruction | clearDisplay | returnHome | entryModeSet | displayControl | cursorOrDisplayShift
  | functionSet | setDdramAddress | writeCharacter =>
    exact .inl (call_operates (sendJobs_operates (List.forall_mem_singleton.mpr (hw (_, _) (.head _))) _) h)
  | wReadStatus | pollBusy => exact .inl (call_operates (returning_operates _ fun _ _ h => (pollBusy_reaches h).1) h)
  | configure => exact .inr (configureThen_operates (operates_finish _) h)
  | setBusDirection => exact .inl (call_operates (returning_operates _ fun _ _ h => (setBusDirection_reaches h).1) h)
  | writeByte => exact .inl (call_operates (returning_operates _ fun _ _ h => (writeByte_reaches h).1) h)
  | readByte => exact .inl (call_operates (returning_operates _ fun _ _ h => readByte_reaches h) h)
  | setRegisterSelect => exact .inl (call_operates (returning_operates _ fun _ _ h => (setRegisterSelect_reaches h).1) h)
  | setReadWrite => exact .inl (call_operates (returning_operates _ fun _ _ h => (setReadWrite_reaches h).1) h)
  | setEnable b =>
    rw [exec, execSetEnable] at h
    obtain ⟨ha, h⟩ := call_eq_next h
    obtain ⟨u, hu, ⟨⟩⟩ := andThen_eq_next h
    have enabled := (setEnable_reaches hu fun h _ _ => he h).1
    exact .inl ⟨ha, s.reaches_entered.trans (enabled.trans (u.reaches_finish _)), u.rests_finish _⟩
  | waitNotBusy => exact .inl (call_operates (busyWait_pollFuel_operates [] (operates_finish _) 0) h)
  | setCgramAddress | readCharacter => exact .inl (call_operates (operates_finish _) h)
  | initialise n c b =>
    have jobs : ∀ j ∈ initJobs n c b, W j.rs j.byte := fun j hj => hw _ (List.mem_map_of_mem hj)
    exact .inr (configureThen_operates (busyWait_pollFuel_operates _ (sendJobs_operates jobs _) 0) h)
  | printString text =>
    have jobs : ∀ j ∈ printJobs text, W j.rs j.byte := fun j hj => hw _ (List.mem_map_of_mem hj)
    exact .inl (call_operates (.ite (p := fun s => textAccepted s.cfg text) (sendJobs_operates jobs _) (operates_raise _)) h)
  | setCursorLocation row column =>
    have job : ∀ j ∈ [cursorJob row column], W j.rs j.byte := by simpa [sentWords, cursorJob] using hw
    exact .inl (call_operates
      (.ite (p := fun s => cursorAccepted s.cfg row column) (sendJobs_operates job _) (operates_raise _)) h)

end Sys2Proof.Machine
end

section
/-! The invariant of the machine (spec/20_memory.md R42, R51 to R53, spec/70_reset_and_hazards.md R210, R211, R214): every small step keeps
the part of it that speaks of a configured block, so every step of the machine keeps it. -/

namespace Sys2Proof.Machine

/-- The display RAM is in its canonical form (R42), and BF is 1 exactly while a word is pending (R51, R53, R65). -/
structure Ctl.Sound (c : Ctl) : Prop where
  memory : Memory.wf c.ddram = true
  busyIffPending : c.bf = true ↔ c.pend ≠ .none

/-- R214's contention: RW = 1, DIR = OUTPUT and E = 1 together. -/
def Pins.contend (p : Pins) : Prop := p.rw = true ∧ p.e = true ∧ p.dir = .output

/-- The invariant inside an operation of a configured block: all of it but what concerns a standing busy-wait. -/
structure State.LiveInv (s : State) : Prop where
  ready : s.life = .ready
  ctl : s.ctl.Sound
  busSafe : Watch.all busSafe Watch.powerOn s.trace = true
  latches : (Watch.powerOn.afterAll s.trace).agrees s.pins
  oneDriver : ¬ s.pins.contend

theorem State.Inv.sound {s : State} (h : s.Inv) : s.ctl.Sound := ⟨h.memory, h.busyIffPending⟩

theorem State.Inv.live {s : State} (h : s.Inv) (hr : s.life = .ready) : s.LiveInv :=
  ⟨hr, h.sound, h.busSafe, h.latches hr, h.oneDriver hr⟩

/-- Where an operation ends or its busy-wait stands, the invariant holds. -/
theorem State.LiveInv.inv {s : State} (h : s.LiveInv) (hs : s.rests) : s.Inv where
  memory := h.ctl.memory
  busyIffPending := h.ctl.busyIffPending
  untouched hl := absurd (h.ready.symm.trans hl) (by decide)
  busSafe := h.busSafe
  latches _ := h.latches
  oneDriver _ := h.oneDriver
  waiting hq := ⟨h.ready, hs hq⟩

/-! ### The controller -/

/-- What a gap does to the controller: nothing, the power-on completion (R65), or the pending word's effect (R53). -/
theorem ctlGap_ctl {s u : State} (h : ctlGap s = .next u) :
    u.ctl = s.ctl ∨ (s.ctl.pend = .powerOn ∧ u.ctl = ctlDone (ctlAnyEffect s.draws s.ctl)) ∨
      ∃ rs v c, s.ctl.pend = .word rs v ∧ ctlEffect s.cfg s.draws rs v s.ctl = .ok c ∧ u.ctl = ctlDone c := by
  unfold ctlGap at h
  split at h
  · cases h; exact .inl rfl
  · cases h; exact .inl rfl
  · unfold ctlComplete at h
    split at h
    · cases h; exact .inl rfl
    · next hp => cases h; exact .inr (.inl ⟨hp, rfl⟩)
    · next rs v hp =>
      split at h
      · next c hc => cases h; exact .inr (.inr ⟨rs, v, c, hp, hc, rfl⟩)
      · cases h
  · cases h; exact .inl rfl

theorem Ctl.sound_done {c : Ctl} (h : Memory.wf c.ddram = true) : (ctlDone c).Sound := ⟨h, by simp [ctlDone]⟩

theorem ctlGap_sound {s u : State} (h : ctlGap s = .next u) (hs : s.ctl.Sound) : u.ctl.Sound := by
  obtain hc | ⟨-, hc⟩ | ⟨rs, v, c, -, he, hc⟩ := ctlGap_ctl h <;> rw [hc]
  · exact hs
  · exact Ctl.sound_done Memory.wf_nil
  · exact Ctl.sound_done (ctlEffect_wf he hs.memory)

/-- A latch that answers makes the word pending, and leaves the rest of the controller alone (R52). -/
theorem ctlLatch_ctl {s t : State} {rs : Bool} {v : Byte} (h : ctlLatch rs v s = .next t) : t.ctl = s.ctl.latched rs v := by
  unfold ctlLatch at h
  split at h <;> cases h
  rfl

theorem Ctl.Sound.latched {c : Ctl} (h : c.Sound) (rs : Bool) (v : Byte) : (c.latched rs v).Sound :=
  ⟨h.memory, by simp [Ctl.latched]⟩

/-! ### The watcher and the pins -/

/-- The watcher of TRACE follows the pins. -/
theorem Watch.agrees.after {w : Watch} {p q : Pins} {ev : Event} (h : w.agrees p) (hm : PinMove p ev q) :
    (w.after ev).agrees q := by
  obtain ⟨hrs, hrw, he, hd, hv⟩ := h
  cases hm with
  | rs | rw | enable => exact ⟨by simp [Watch.after, *], by simp [Watch.after, *], by simp [Watch.after, *], hd, hv⟩
  | dir d v low drawn =>
    refine ⟨hrs, hrw, he, rfl, ?_⟩
    simp only [Watch.after, hd]
    split
    · exact .inl rfl
    · next still => exact (drawn.resolve_right still) ▸ hv
  | data v => exact ⟨hrs, hrw, he, hd, .inr rfl⟩
  | sample => exact ⟨hrs, hrw, he, hd, hv⟩
  | delay k => cases k <;> exact ⟨hrs, hrw, he, hd, hv⟩

/-- Only a rise of enable could start a contention, and that faults (R108). -/
theorem PinMove.not_contend {p q : Pins} {ev : Event} (h : PinMove p ev q) (hp : ¬ p.contend) : ¬ q.contend := by
  rintro ⟨hrw, he, hd⟩
  cases h with
  | rs b low | rw b low | dir d v low | data v low => exact absurd he (by simp [low])
  | enable b free =>
    cases hpe : p.e with
    | false => exact free ⟨hpe, he, hrw, hd⟩
    | true => exact hp ⟨hrw, hpe, hd⟩
  | sample | delay => exact hp ⟨hrw, he, hd⟩

/-- RS, RW, DIR and DOUT move only with enable low, and the drivers never fight (R210, R211, R214). -/
theorem Watch.agrees.busSafe {w : Watch} {p q : Pins} {ev : Event} (h : w.agrees p) (hm : PinMove p ev q) (hq : ¬ q.contend) :
    busSafe w ev = true := by
  obtain ⟨-, hrw, he, hd, -⟩ := h.after hm
  have one : Machine.oneDriver w ev = true := by
    simp only [Machine.oneDriver, hrw, he, hd, Bool.not_eq_true', Bool.eq_false_iff]
    simpa [Pins.contend, and_assoc] using hq
  obtain ⟨-, -, high, -, -⟩ := h
  cases hm with
  | rs b low | rw b low | dir d v low | data v low => simp [Machine.busSafe, dirSwitchSafe, latchesHeld, one, high, low]
  | enable | sample | delay => simp [Machine.busSafe, dirSwitchSafe, latchesHeld, one]

theorem State.LiveInv.step {W : Bool → Byte → Prop} {s t : State} (h : s.LiveInv) (ht : SmallStep W s t) : t.LiveInv := by
  obtain ⟨ready, ctl, safe, latches, one⟩ := h
  cases ht with
  | silent hl hp htr hc => exact ⟨hl ▸ ready, hc ▸ ctl, htr ▸ safe, htr ▸ hp ▸ latches, hp ▸ one⟩
  | gap hg =>
    have sound := ctlGap_sound hg ctl
    rw [ctlGap_frame hg]
    exact ⟨ready, sound, safe, latches, one⟩
  | event ev hl hc htr move =>
    have one' := move.not_contend one
    refine ⟨hl ▸ ready, hc ▸ ctl, ?_, ?_, one'⟩
    · rw [htr, Watch.all_append, safe]
      simp [Watch.all, latches.busSafe move one']
    · rw [htr, Watch.afterAll_append]
      exact latches.after move
  | latch rs v _ hl =>
    have sound : t.ctl.Sound := ctlLatch_ctl hl ▸ ctl.latched rs v
    rw [ctlLatch_frame hl]
    exact ⟨ready, sound, safe, latches, one⟩

theorem State.LiveInv.reaches {W : Bool → Byte → Prop} {s t : State} (h : s.LiveInv) (ht : s.Reaches W t) : t.LiveInv := by
  induction ht with
  | refl => exact h
  | tail _ last ih => exact ih.step last

/-! ### The step -/

/-- The invariant where nothing but the controller and what HOST sees has changed. -/
theorem State.Inv.of_ctl {s t : State} (h : s.Inv) (ctl : t.ctl.Sound) (hl : t.life = s.life) (hp : t.pins = s.pins)
    (htr : t.trace = s.trace) (hseq : t.seq = s.seq) : t.Inv where
  memory := ctl.memory
  busyIffPending := ctl.busyIffPending
  untouched := by rw [hl, htr]; exact h.untouched
  busSafe := htr ▸ h.busSafe
  latches := by rw [hl, htr, hp]; exact h.latches
  oneDriver := by rw [hl, hp]; exact h.oneDriver
  waiting := by rw [hl, hp, hseq]; exact h.waiting

theorem ctlGap_inv {s t : State} (h : s.Inv) (hg : ctlGap s = .next t) : t.Inv := by
  have sound := ctlGap_sound hg h.sound
  rw [ctlGap_frame hg]
  exact h.of_ctl sound rfl rfl rfl rfl

/-- R201: after `configure` the watcher, who has seen nothing before, knows the bus. -/
theorem configured_liveInv {u : State} (hc : u.ctl.Sound) (ht : u.trace = []) : (configured u).LiveInv := by
  refine ⟨rfl, hc, ?_, ?_, ?_⟩
  · rw [configured_trace, ht]; decide
  · rw [configured_trace, ht]; exact ⟨rfl, rfl, rfl, rfl, .inl rfl⟩
  · simp [Pins.contend, configured]

theorem claimFailed_inv {u : State} (hc : u.ctl.Sound) (ht : u.trace = []) (c : Condition) :
    (raise c (claimFailed u)).Inv where
  memory := hc.memory
  busyIffPending := hc.busyIffPending
  untouched := nofun
  busSafe := by rw [raise_trace, claimFailed_trace, ht]; decide
  latches := nofun
  oneDriver := nofun
  waiting h := absurd rfl h

theorem exec_inv {s t : State} {i : Instr} (h : s.Inv) (hx : exec i s = .next t) : t.Inv := by
  obtain ⟨⟨ready, -⟩, reached, rests⟩ | ⟨hl, u, hu, hk⟩ :=
    exec_reaches (W := fun _ _ => True) (fun _ _ => trivial) (fun _ => trivial) hx
  · exact ((h.live ready).reaches reached).inv rests
  · have sound : u.ctl.Sound := ctlGap_sound hu h.sound
    have empty : u.trace = [] := by rw [ctlGap_frame hu]; exact h.untouched hl
    obtain ⟨reached, rests⟩ | rfl := hk
    · exact ((configured_liveInv sound empty).reaches reached).inv rests
    · exact claimFailed_inv sound empty _

/-- Settles O12: an operation is small steps, and each keeps the invariant of a configured block. -/
theorem stepKeepsInvariant : Obligations.StepKeepsInvariant := by
  intro s t h hs
  obtain ⟨n, stack, hw, hr⟩ | ⟨-, -, hg⟩ | ⟨c, rest, i, -, -, -, hx⟩ := step_eq_next hs
  · have ready := (h.waiting (by simp [hw])).1
    obtain ⟨reached, rests⟩ := resume_operates (W := fun _ _ => True) n (fun _ _ => trivial) s t hr
    exact ((h.live ready).reaches reached).inv rests
  · exact ctlGap_inv h hg
  · have taken : ({ s with calls := rest } : State).Inv := h.of_ctl h.sound rfl rfl rfl rfl
    exact exec_inv taken hx

end Sys2Proof.Machine
end

section
/-! The controller's commands and its gap (spec/20_memory.md R53, R54, R60, R63), and the latch at the end of a write pulse (R46, R48,
R52). -/

namespace Sys2Proof.Machine

/-! ### Reading a latched byte, R54 -/

@[simp] theorem latchedCommand_clearDisplayByte : latchedCommand false clearDisplayByte = .clearDisplay := by decide

@[simp] theorem latchedCommand_returnHomeByte : latchedCommand false returnHomeByte = .returnHome := by decide

@[simp] theorem latchedCommand_entryModeByte (i s : Bool) : latchedCommand false (entryModeByte i s) = .entryModeSet i s := by
  cases i <;> cases s <;> decide

@[simp] theorem latchedCommand_displayControlByte (d c b : Bool) :
    latchedCommand false (displayControlByte d c b) = .displayControl d c b := by
  cases d <;> cases c <;> cases b <;> decide

@[simp] theorem latchedCommand_shiftByte (c r : Bool) : latchedCommand false (shiftByte c r) = .shift c r := by
  cases c <;> cases r <;> decide

@[simp] theorem latchedCommand_functionSetByte (l n f : Bool) :
    latchedCommand false (functionSetByte l n f) = .functionSet l n f := by
  cases l <;> cases n <;> cases f <;> decide

/-- Bit 7 names the command, and the seven bits below are the operand's own. -/
@[simp] theorem latchedCommand_ddramAddressByte (a : Byte) :
    latchedCommand false (ddramAddressByte a) = .setDdramAddress (a.setWidth 7) := by
  have high : (ddramAddressByte a).getLsbD 7 = true := by simp [ddramAddressByte]
  have low : (ddramAddressByte a).setWidth 7 = a.setWidth 7 := by
    simp only [ddramAddressByte, BitVec.setWidth_or, BitVec.setWidth_and]
    exact (BitVec.zero_or ..).trans (BitVec.and_allOnes ..)
  simp [latchedCommand, high, low]

@[simp] theorem latchedCommand_character (k : Byte) : latchedCommand true k = .character k := rfl

/-- Settles O6: one fact for each encoder. -/
theorem controllerReadsWhatEncodersMake : Obligations.ControllerReadsWhatEncodersMake :=
  ⟨latchedCommand_clearDisplayByte, latchedCommand_returnHomeByte, latchedCommand_entryModeByte,
    latchedCommand_displayControlByte, latchedCommand_shiftByte, latchedCommand_functionSetByte,
    latchedCommand_ddramAddressByte, latchedCommand_character⟩

/-! ### The gap, R53 -/

/-- The gap in which the pending word's effect is applied. -/
theorem ctlGap_word_completes {s : State} {rs : Bool} {v : Byte} {c : Ctl} (hp : s.ctl.pend = .word rs v)
    (hd : s.env.due = some 0) (he : ctlEffect s.cfg s.draws rs v s.ctl = .ok c) :
    ctlGap s =
      .next { s with ctl := ctlDone c, env := { s.env with due := none }, draws := s.draws + effectDraws rs v } := by
  rw [ctlGap_now (by simp [hp]) hd]
  simp only [ctlComplete, hp, he]

/-- The gap in which the pending word's effect is a fault. -/
theorem ctlGap_word_faults {s : State} {rs : Bool} {v : Byte} {f : Fault} (hp : s.ctl.pend = .word rs v)
    (hd : s.env.due = some 0) (he : ctlEffect s.cfg s.draws rs v s.ctl = .error f) : ctlGap s = .fault f := by
  rw [ctlGap_now (by simp [hp]) hd]
  simp only [ctlComplete, hp, he]

/-- Settles O32: one lemma for each case of the count. -/
theorem controllerMovesInGap : Obligations.ControllerMovesInGap :=
  ⟨fun _ hp => ctlGap_idle hp, fun _ hd => ctlGap_never hd, fun _ _ hp hd => ctlGap_count hp hd,
    fun _ _ _ _ hp hd he => ⟨_, ctlGap_word_completes hp hd he, rfl, rfl, rfl⟩,
    fun _ _ _ _ hp hd he => ctlGap_word_faults hp hd he⟩

theorem ctlEffect_fourBit (cfg : Config) (m : Nat) (n f : Bool) (C : Ctl) :
    ctlEffect cfg m false (functionSetByte false n f) C = .error .fourBitModeSelected := by
  simp [ctlEffect]

/-- Settles O33: the two effects that are faults. -/
theorem completionFaults : Obligations.CompletionFaults := fun _ _ _ hd =>
  ⟨fun hp => ctlGap_word_faults hp hd (ctlEffect_fourBit _ _ _ _ _), fun hp => ctlGap_word_faults hp hd rfl⟩

/-! ### The address step, R63 -/

theorem toNat_acStep_up {a : Addr} (h : validCell (a.toNat + 1) = true) : (acStep a true).toNat = a.toNat + 1 := by
  have bound : a.toNat + 1 < 0x68 := by simp [validCell] at h; omega
  simp only [acStep, h, if_true]
  bv_omega

theorem toNat_acStep_down {a : Addr} (h0 : 0 < a.toNat) (h : validCell (a.toNat - 1) = true) :
    (acStep a false).toNat = a.toNat - 1 := by
  simp only [acStep, h, h0, decide_true, Bool.and_self, if_true, Bool.false_eq_true, if_false]
  bv_omega

/-- Settles O34: no carry leaves the seven bits inside the lines. -/
theorem addressStepInsideLines : Obligations.AddressStepInsideLines := fun _ =>
  ⟨toNat_acStep_up, toNat_acStep_down⟩

/-! ### The end of a write pulse, R46 and R48 -/

/-- R108: the falling edge of a write pulse latches the word on the pins into an idle controller. -/
theorem setEnable_falls {s u : State} (hu : ctlGap s = .next u) (he : s.pins.e = true) (hrw : s.pins.rw = false)
    (hd : s.pins.dir = .output) (hb : u.ctl.bf = false) :
    setEnable false s = .next { u with
      pins := { s.pins with e := false }, trace := u.trace ++ [.e false], ctl := u.ctl.latched s.pins.rs s.pins.dout
      env := { u.env with due := u.env.next, latencies := u.env.latencies.tail } } := by
  simp [setEnable, hu, ctlGap_pins hu, enableEdge, he, hrw, hd, ctlLatch, hb, State.log, Ctl.latched]

/-- The transaction the watcher reads off that edge: its byte is DOUT where TRACE fixes it, and TRACE fixes it wherever no hazard
rule is broken. -/
theorem Watch.txns_falls {tr : List Event} {p : Pins} (hw : (Watch.powerOn.afterAll tr).agrees p) (he : p.e = true)
    (hrw : p.rw = false) :
    ∃ b, Watch.powerOn.txns (tr ++ [Event.e false]) = Watch.powerOn.txns tr ++ [Txn.wr p.rs b] ∧ (b = none ∨ b = some p.dout) ∧
      (Watch.all hazardFree Watch.powerOn (tr ++ [Event.e false]) = true → b = some p.dout) := by
  obtain ⟨wrs, wrw, we, -, wdata⟩ := hw
  have gained : Watch.powerOn.txns (tr ++ [Event.e false]) =
      Watch.powerOn.txns tr ++ [Txn.wr p.rs (Watch.powerOn.afterAll tr).data] := by
    simp [Watch.txns_append, Watch.txns, Watch.txn, Watch.isWrite, we, wrw, wrs, he, hrw]
  refine ⟨_, gained, wdata, fun hz => wdata.resolve_left fun unknown => ?_⟩
  have low : Watch.powerOn.e = true → Watch.powerOn.rw = true ∨ Watch.powerOn.data.isSome = true := nofun
  have known := Watch.writes_known _ low hz (gained ▸ List.mem_append_right _ (.head _))
  rw [unknown] at known
  cases known

/-- Settles O26: the edge latches what the pins carry, and the watcher's latches are the block's. -/
theorem fallingEnableLatchesWord : Obligations.FallingEnableLatchesWord := by
  intro s u ha hu he hrw hd hb
  have edge : exec (.setEnable false) s = returning (fun _ => .nothing) (setEnable false s.entered) := by
    rw [exec, execSetEnable, call_accepts ha]
  rw [setEnable_falls hu he hrw hd hb] at edge
  have read (hs : s.Inv) := Watch.txns_falls (hs.latches ha.1) he hrw
  obtain ⟨c, due, n, rfl⟩ : ∃ c due n, u = { s.entered with ctl := c, env := { s.env with due := due }, draws := n } :=
    ⟨_, _, _, ctlGap_frame hu⟩
  exact ⟨_, edge, rfl, rfl, rfl, rfl, rfl, rfl, rfl, rfl, rfl, read⟩

end Sys2Proof.Machine
end

section
/-! The instructions that send one word (spec/20_memory.md R56 to R62, spec/41_instruction_layer.md R124 to R130): one closed form for all
of them, from which each is the effect of its word; and what keeps the display RAM. -/

namespace Sys2Proof.Machine

/-! ### One word -/

theorem State.runnable.next {s : State} (h : s.runnable) : ∃ d, s.env.next = some d := by
  obtain ⟨-, -, hn⟩ := h
  exact Option.ne_none_iff_exists'.mp hn

/-- An operation that sends one word, from a runnable state, is R120 with it. -/
theorem exec_eq_executeJob {s : State} {i : Instr} {rs : Bool} {v : Byte} (ha : s.accepts) (hw : wordOf i = some (rs, v)) :
    ∃ ps, exec i s = executeJob ⟨ps, rs, v⟩ (sendJobs [] .nothing) s.entered := by
  obtain ⟨ps, hx⟩ := exec_eq_call_of_wordOf hw
  exact ⟨ps, (hx s).trans (call_accepts ha _)⟩

/-- The controller at rest is as it was before the word but for the word's effect. -/
theorem ctlDone_of_idle {c : Ctl} (hb : c.bf = false) (hp : c.pend = .none) : ctlDone c = c := by
  cases c; cases hb; cases hp; rfl

/-- R120 in closed form, for a word whose effect draws nothing and is no fault. -/
theorem exec_word_completes {s : State} {i : Instr} {rs : Bool} {v : Byte} {c : Ctl} (hs : s.runnable)
    (hw : wordOf i = some (rs, v)) (hd : effectDraws rs v = 0) (he : ∀ n, ctlEffect s.cfg n rs v s.ctl = .ok c)
    (hb : c.bf = s.ctl.bf) (hp : c.pend = s.ctl.pend) :
    ∃ p, exec i s = .next (finish .nothing (s.executed rs v p 0 c)) := by
  obtain ⟨d, hn⟩ := hs.next
  obtain ⟨⟨ha, hq, hbf, hpend⟩, hlim, -⟩ := hs
  obtain ⟨ps, hx⟩ := exec_eq_executeJob ha hw
  obtain ⟨p, hj⟩ := executeJob_completes (s := s.entered) (j := ⟨ps, rs, v⟩) (sendJobs [] .nothing) he hlim hq hpend hbf hn
  rw [hx, hj, hd, ctlDone_of_idle (hb.trans hbf) (hp.trans hpend)]
  exact ⟨p, rfl⟩

/-- R120 with a word whose effect is a fault. -/
theorem exec_word_faults {s : State} {i : Instr} {rs : Bool} {v : Byte} {f : Fault} (hs : s.runnable)
    (hw : wordOf i = some (rs, v)) (he : ∀ n, ctlEffect s.cfg n rs v s.ctl = .error f) : exec i s = .fault f := by
  obtain ⟨d, hn⟩ := hs.next
  obtain ⟨⟨ha, hq, hbf, hpend⟩, hlim, -⟩ := hs
  obtain ⟨ps, hx⟩ := exec_eq_executeJob ha hw
  rw [hx, executeJob_faults (s := s.entered) (j := ⟨ps, rs, v⟩) _ he hlim hq hpend hbf hn]

/-! ### The bytes as the rules write them -/

theorem entryModeByte_eq (i s : Bool) : entryModeByte i s = 0x04 ||| (if i then 2 else 0) ||| (if s then 1 else 0) := by
  cases i <;> cases s <;> decide

theorem displayControlByte_eq (d c b : Bool) :
    displayControlByte d c b = 0x08 ||| (if d then 4 else 0) ||| (if c then 2 else 0) ||| (if b then 1 else 0) := by
  cases d <;> cases c <;> cases b <;> decide

theorem shiftByte_eq (c r : Bool) : shiftByte c r = 0x10 ||| (if c then 8 else 0) ||| (if r then 4 else 0) := by
  cases c <;> cases r <;> decide

theorem functionSetByte_eq (n f : Bool) :
    functionSetByte true n f = 0x30 ||| (if n then 8 else 0) ||| (if f then 4 else 0) := by
  cases n <;> cases f <;> decide

/-- R78: bit 7 of the operand is dropped, so the seven-bit operand of the wire word makes the same byte. -/
theorem ddramAddressByte_setWidth (a : Byte) : ddramAddressByte ((a.setWidth 7).setWidth 8) = ddramAddressByte a := by
  have low : (a.setWidth 7).setWidth 8 = a &&& 0x7F := by
    apply BitVec.eq_of_toNat_eq
    have mask : a.toNat &&& 127 = a.toNat % 128 := Nat.and_two_pow_sub_one_eq_mod _ 7
    simp only [BitVec.toNat_setWidth, BitVec.toNat_and, BitVec.reduceToNat, mask]
    omega
  rw [ddramAddressByte, low, BitVec.and_assoc, BitVec.and_self, ddramAddressByte]

/-! ### Each instruction -/

/-- Settles O37: the byte has one reading and its effect draws nothing. -/
theorem returnHomeCompletes : Obligations.ReturnHomeCompletes := by
  intro s i hs hi
  have hw : wordOf i = some (false, returnHomeByte) := by obtain rfl | rfl := hi <;> rfl
  exact exec_word_completes hs hw rfl (fun _ => rfl) rfl rfl

/-- Settles O38: the byte is read back as the operands that made it. -/
theorem entryModeSetCompletes : Obligations.EntryModeSetCompletes := by
  intro s i inc sh hs hi
  have hw : wordOf i = some (false, entryModeByte inc sh) := by obtain rfl | rfl := hi <;> rfl
  rw [← entryModeByte_eq]
  exact exec_word_completes hs hw (by simp [effectDraws]) (by simp [ctlEffect, ctlEntryModeSet]) rfl rfl

/-- Settles O39: the byte is read back as the operands that made it. -/
theorem displayControlCompletes : Obligations.DisplayControlCompletes := by
  intro s i d c b hs hi
  have hw : wordOf i = some (false, displayControlByte d c b) := by obtain rfl | rfl := hi <;> rfl
  rw [← displayControlByte_eq]
  exact exec_word_completes hs hw (by simp [effectDraws]) (by simp [ctlEffect, ctlDisplayControl]) rfl rfl

/-- Settles O40: the window moves with shift_display, the cursor without. -/
theorem shiftCompletes : Obligations.ShiftCompletes := by
  intro s i sd right hs hc hi
  have hw : wordOf i = some (false, shiftByte sd right) := by obtain rfl | rfl := hi <;> rfl
  rw [← shiftByte_eq]
  refine exec_word_completes hs hw (by simp [effectDraws]) ?_ rfl rfl
  cases sd with
  | true => simp [ctlEffect, ctlShift]
  | false => simp [ctlEffect, ctlShift, hc]

/-- Settles O41: the byte is read back as the operands that made it. -/
theorem functionSetCompletes : Obligations.FunctionSetCompletes := by
  intro s i n f hs hi
  have hw : wordOf i = some (false, functionSetByte true n f) := by obtain rfl | rfl := hi <;> rfl
  rw [← functionSetByte_eq]
  exact exec_word_completes hs hw (by simp [effectDraws]) (by simp [ctlEffect, ctlFunctionSet]) rfl rfl

/-- Settles O42: the effect of the word is the fault. -/
theorem fourBitModeFaults : Obligations.FourBitModeFaults := by
  intro s i n f hs hi
  have hw : wordOf i = some (false, functionSetByte false n f) := by obtain rfl | rfl := hi <;> rfl
  exact exec_word_faults hs hw fun m => ctlEffect_fourBit _ m n f _

/-- Settles O43: both forms send the same byte, which is read back as its low seven bits. -/
theorem setDdramAddressCompletes : Obligations.SetDdramAddressCompletes := by
  intro s i a hs hi
  have hw : wordOf i = some (false, ddramAddressByte a) := by
    obtain rfl | rfl := hi
    · rfl
    · rw [wordOf, ddramAddressByte_setWidth]
  have he : ∀ n, ctlEffect s.cfg n false (ddramAddressByte a) s.ctl = .ok (ctlSetDdramAddress (a.setWidth 7) s.ctl) := by
    simp [ctlEffect]
  exact exec_word_completes (v := ddramAddressByte a) hs hw (by simp [effectDraws]) he rfl rfl

/-- A character write in closed form, wherever AC stands. -/
theorem exec_character_completes {s : State} {i : Instr} {k : Byte} (hs : s.runnable)
    (hi : i = .writeCharacter k ∨ i = .wWriteCharacter k) :
    ∃ p, exec i s = .next (finish .nothing (s.executed true k p 0 (ctlCharacter s.cfg k s.ctl))) := by
  have hw : wordOf i = some (true, k) := by obtain rfl | rfl := hi <;> rfl
  exact exec_word_completes hs hw rfl (fun _ => rfl) rfl rfl

theorem writeCell_of_valid {a : Addr} (h : validCell a.toNat = true) : writeCell a = some a := by
  rw [writeCell, if_pos h]

/-- Settles O44: AC is the cell that is written. -/
theorem writeCharacterCompletes : Obligations.WriteCharacterCompletes := by
  intro s i k hs hc hv hi
  have effect := exec_character_completes hs hi
  simpa only [ctlCharacter, writeCell_of_valid hv, writeShift, hc] using effect

theorem ctlCharacter_read_written (cfg : Config) (k : Byte) {c : Ctl} {a : Addr} (h : writeCell c.regs.ac = some a) :
    Memory.read (ctlCharacter cfg k c).ddram a.toNat = some k := by
  simp only [ctlCharacter, h, Memory.read_write_same]

theorem ctlCharacter_read_other (cfg : Config) (k : Byte) {c : Ctl} {x : Nat}
    (h : ∀ a, writeCell c.regs.ac = some a → a.toNat ≠ x) :
    Memory.read (ctlCharacter cfg k c).ddram x = Memory.read c.ddram x := by
  unfold ctlCharacter
  split
  · next a ha => exact Memory.read_write_other _ _ (h a ha).symm
  · rfl

/-- Settles O45: reads after the one write. -/
theorem characterWriteFrame : Obligations.CharacterWriteFrame := by
  intro s i k hs hi
  obtain ⟨p, hx⟩ := exec_character_completes hs hi
  exact ⟨_, hx, fun _ ha => ctlCharacter_read_written _ _ ha, fun _ hx => ctlCharacter_read_other _ _ hx⟩

/-! ### Two instructions in order, R68 -/

theorem State.settled.runnable {s : State} (hs : s.settled) (hlim : s.cfg.pollLimit = none) (hr : s.responsive) :
    s.runnable := by
  obtain ⟨d, hd⟩ := hr.next
  exact ⟨hs, hlim, hd ▸ Option.some_ne_none d⟩

/-- R61: after an address-set with a cell of the two lines, AC is the cell, and the block is ready for the next instruction. -/
theorem setDdramAddress_leaves {s t : State} {a : Byte} (hs : s.settled) (hlim : s.cfg.pollLimit = none) (hr : s.responsive)
    (hv : validCell (a.toNat % 128) = true) (ht : exec (.setDdramAddress a) s = .next t) :
    t.settled ∧ t.cfg.pollLimit = none ∧ t.responsive ∧ t.ctl.regs.ac = a.setWidth 7 := by
  obtain ⟨p, hx⟩ := setDdramAddressCompletes s _ a (hs.runnable hlim hr) (.inl rfl)
  refine ⟨upperTierReturnsSettled s t _ hs hlim hr rfl ht, ?_⟩
  obtain rfl := Host.Outcome.next.inj (hx.symm.trans ht)
  obtain ⟨-, -, -, idle⟩ := hs
  obtain ⟨-, hlat, hafter⟩ := hr
  exact ⟨hlim, ⟨fun hp => absurd idle hp, fun d hd => hlat d (List.mem_of_mem_tail hd), hafter⟩, by simp [hv]⟩

/-- R120's first event is RS. -/
theorem executed_trace_rs (s : State) (rs : Bool) (v : Byte) (j inc : Nat) (c : Ctl) :
    ∃ evs, (s.executed rs v j inc c).trace = s.trace ++ (.rs rs :: evs) :=
  ⟨(writeEvents rs v).tail ++ busyRounds j (s.draws + 1) ++ pollEvents (statusByte false (s.draws + 1 + j + inc)),
    by simp [writeEvents]⟩

/-- Settles O59: the address-set leaves AC at the address, and the write stores there with no poll before it. -/
theorem addressThenDataStores : Obligations.AddressThenDataStores := by
  intro s t a k hs hlim hr hv ht
  obtain ⟨hs, hlim, hr, hac⟩ := setDdramAddress_leaves hs hlim hr hv ht
  obtain ⟨p, hx⟩ := exec_character_completes (k := k) (hs.runnable hlim hr) (.inl rfl)
  have cell : (a.setWidth 7).toNat = a.toNat % 128 := BitVec.toNat_setWidth ..
  have written : writeCell t.ctl.regs.ac = some (a.setWidth 7) := by rw [hac, writeCell_of_valid (cell ▸ hv)]
  obtain ⟨evs, first⟩ := executed_trace_rs t true k p 0 (ctlCharacter t.cfg k t.ctl)
  exact ⟨_, evs, hx, cell ▸ ctlCharacter_read_written t.cfg k written, first,
    upperTierReturnsSettled t _ _ hs hlim hr rfl hx⟩

/-! ### What keeps the display RAM -/

/-- The commands that leave every cell as it was. -/
def Command.spares : Command → Bool
  | .returnHome | .entryModeSet _ _ | .displayControl _ _ _ | .shift _ _ | .functionSet _ _ _ | .setDdramAddress _
  | .noCommand => true
  | .clearDisplay | .character _ | .unspecified => false

/-- The word's effect leaves every cell as it was. -/
def sparingWord (rs : Bool) (v : Byte) : Prop := (latchedCommand rs v).spares = true

theorem ctlEffect_ddram {cfg : Config} {n : Nat} {rs : Bool} {v : Byte} {C c : Ctl} (hw : sparingWord rs v)
    (h : ctlEffect cfg n rs v C = .ok c) : c.ddram = C.ddram := by
  unfold sparingWord at hw
  unfold ctlEffect at h
  cases hc : latchedCommand rs v with
  | clearDisplay | character | unspecified => simp [hc, Command.spares] at hw
  | shift sc rl =>
    simp only [hc] at h
    cases h
    cases sc <;> rfl
  | functionSet dl n f =>
    simp only [hc] at h
    split at h <;> cases h
    rfl
  | noCommand => simp only [hc] at h; cases h
  | returnHome | entryModeSet | displayControl | setDdramAddress => simp only [hc] at h; cases h; rfl

/-- The display RAM is `D`, and whatever is pending leaves it so. -/
def Ctl.keeps (D : List Host.Cell) (c : Ctl) : Prop :=
  c.ddram = D ∧ c.pend ≠ .powerOn ∧ ∀ rs v, c.pend = .word rs v → sparingWord rs v

theorem Ctl.keeps_done {D : List Host.Cell} {c : Ctl} (h : c.ddram = D) : (ctlDone c).keeps D := ⟨h, nofun, nofun⟩

theorem SmallStep.keeps {D : List Host.Cell} {s t : State} (h : SmallStep sparingWord s t) (hs : s.ctl.keeps D) :
    t.ctl.keeps D := by
  have ⟨ram, running, pending⟩ := hs
  cases h with
  | silent _ _ _ hc => exact hc ▸ hs
  | event _ _ hc => exact hc ▸ hs
  | gap hg =>
    obtain hc | ⟨hp, -⟩ | ⟨rs, v, c, hp, he, hc⟩ := ctlGap_ctl hg
    · exact hc ▸ hs
    · exact absurd hp running
    · exact hc ▸ Ctl.keeps_done ((ctlEffect_ddram (pending rs v hp) he).trans ram)
  | latch rs v hw hl =>
    rw [ctlLatch_ctl hl]
    refine ⟨ram, nofun, ?_⟩
    rintro _ _ ⟨⟩
    exact hw

theorem State.Reaches.keeps {D : List Host.Cell} {s t : State} (h : s.Reaches sparingWord t) (hs : s.ctl.keeps D) :
    t.ctl.keeps D := by
  induction h with
  | refl => exact hs
  | tail _ last ih => exact last.keeps ih

/-- The operations O60 speaks of send no word that stores. -/
theorem sentWords_sparing {i : Instr} (hc : i ≠ .clearDisplay) (hwc : i ≠ .wClearDisplay) (hk : ∀ k, i ≠ .writeCharacter k)
    (hwk : ∀ k, i ≠ .wWriteCharacter k) (hx : ∀ rs v, i ≠ .executeInstruction rs v) (hp : ∀ x, i ≠ .printString x)
    (hi : ∀ n c b, i ≠ .initialise n c b) : ∀ w ∈ sentWords i, sparingWord w.1 w.2 := by
  cases i with
  | clearDisplay => exact absurd rfl hc
  | wClearDisplay => exact absurd rfl hwc
  | writeCharacter k => exact absurd rfl (hk k)
  | wWriteCharacter k => exact absurd rfl (hwk k)
  | executeInstruction rs v => exact absurd rfl (hx rs v)
  | printString x => exact absurd rfl (hp x)
  | initialise n c b => exact absurd rfl (hi n c b)
  | returnHome | wReturnHome => exact List.forall_mem_singleton.mpr rfl
  | entryModeSet | wEntryModeSet | displayControl | wDisplayControl | cursorOrDisplayShift | wCursorOrDisplayShift | functionSet
  | wFunctionSet | setDdramAddress | wSetDdramAddress | setCursorLocation =>
    simp [sentWords, wordOf, sparingWord, Command.spares]
  | _ => exact nofun

/-- Settles O60: an operation is small steps, and none of them stores where it latches only words that do not. -/
theorem onlyWritesAndClearStore : Obligations.OnlyWritesAndClearStore := by
  intro s t i hs hx hc hwc hk hwk hex hp a
  obtain ⟨⟨ready, -⟩, ⟨-, -, low, -⟩, -, idle⟩ := hs
  have configured : s.life ≠ .unconfigured := by simp [ready]
  have notInit : ∀ n c b, i ≠ .initialise n c b := by
    rintro n c b rfl
    exact configured (callFirst_eq_next hx).2.1
  have sparing := sentWords_sparing hc hwc hk hwk hex hp notInit
  obtain ⟨-, reached, -⟩ | ⟨hl, -⟩ := exec_reaches sparing (by simp [low]) hx
  · have start : s.ctl.keeps s.ctl.ddram := ⟨rfl, by simp [idle], by simp [idle]⟩
    rw [(reached.keeps start).1]
  · exact absurd hl configured

end Sys2Proof.Machine
end

section
/-! Wire words (spec/30_encoding.md R70 to R80, R83): RS and RW pick the row or leave it to the data byte; a command byte is read
by its mask, and the mask with the operand bits makes the whole byte again. -/

namespace Sys2Proof.Machine

/-! ### The fields of a wire word, R70 -/

theorem wireWord_setWidth_eight (rs rw : Bool) (v : Byte) : (wireWord rs rw v).setWidth 8 = v :=
  BitVec.setWidth_append_eq_right

theorem wireWord_setWidth_seven (rs rw : Bool) (v : Byte) : (wireWord rs rw v).setWidth 7 = v.setWidth 7 := by
  rw [wireWord, BitVec.setWidth_append, dif_pos (by omega)]

theorem wireWord_getLsbD_of_lt {k : Nat} (rs rw : Bool) (v : Byte) (hk : k < 8) :
    (wireWord rs rw v).getLsbD k = v.getLsbD k := by
  rw [wireWord, BitVec.getLsbD_append, if_pos hk]

theorem wireWord_getLsbD_eight (rs rw : Bool) (v : Byte) : (wireWord rs rw v).getLsbD 8 = rw := by
  rw [wireWord, BitVec.getLsbD_append, if_neg (by omega)]
  cases rs <;> cases rw <;> rfl

theorem wireWord_getLsbD_nine (rs rw : Bool) (v : Byte) : (wireWord rs rw v).getLsbD 9 = rs := by
  rw [wireWord, BitVec.getLsbD_append, if_neg (by omega)]
  cases rs <;> cases rw <;> rfl

theorem wireWord_ext_iff {w u : WireWord} :
    w = u ↔ w.getLsbD 9 = u.getLsbD 9 ∧ w.getLsbD 8 = u.getLsbD 8 ∧ w.setWidth 8 = u.setWidth 8 := by
  refine ⟨by rintro rfl; exact ⟨rfl, rfl, rfl⟩, fun ⟨h9, h8, low⟩ => BitVec.eq_of_getLsbD_eq fun k hk => ?_⟩
  by_cases h : k < 8
  · simpa [h] using congrArg (·.getLsbD k) low
  · obtain rfl | rfl : k = 8 ∨ k = 9 := by omega
    · exact h8
    · exact h9

/-- A word matches a row of the table when each of its three fields matches. -/
theorem wireWord_and_eq_iff {rs rw : Bool} {v : Byte} {mask pattern : WireWord} :
    wireWord rs rw v &&& mask = pattern ↔
      (rs && mask.getLsbD 9) = pattern.getLsbD 9 ∧ (rw && mask.getLsbD 8) = pattern.getLsbD 8 ∧
        v &&& mask.setWidth 8 = pattern.setWidth 8 := by
  rw [wireWord_ext_iff, BitVec.getLsbD_and, BitVec.getLsbD_and, BitVec.setWidth_and, wireWord_getLsbD_nine,
    wireWord_getLsbD_eight, wireWord_setWidth_eight]

theorem toNat_wireWord (rs rw : Bool) (v : Byte) :
    (wireWord rs rw v).toNat = 512 * rs.toNat + 256 * rw.toNat + v.toNat := by
  have high : (BitVec.ofBool rs ++ BitVec.ofBool rw).toNat = 2 * rs.toNat + rw.toNat := by cases rs <;> cases rw <;> rfl
  rw [wireWord, BitVec.toNat_append, high, ← Nat.shiftLeft_add_eq_or_of_lt v.isLt, Nat.shiftLeft_eq]
  omega

/-! ### The rows of format W, by RS and RW (R71) -/

/-- R72 to R78: the data byte of a word with RS = RW = 0, read by the low eight bits of the table's masks; `decodeWire_command` ties it
to the decoder. -/
def decodeCommand (v : Byte) : Option Instr :=
  if v &&& 0xFF = 0x01 then some .wClearDisplay
  else if v &&& 0xFF = 0x02 then some .wReturnHome
  else if v &&& 0xFC = 0x04 then some (.wEntryModeSet (v.getLsbD 1) (v.getLsbD 0))
  else if v &&& 0xF8 = 0x08 then some (.wDisplayControl (v.getLsbD 2) (v.getLsbD 1) (v.getLsbD 0))
  else if v &&& 0xF3 = 0x10 then some (.wCursorOrDisplayShift (v.getLsbD 3) (v.getLsbD 2))
  else if v &&& 0xE3 = 0x20 then some (.wFunctionSet (v.getLsbD 4) (v.getLsbD 3) (v.getLsbD 2))
  else if v &&& 0x80 = 0x80 then some (.wSetDdramAddress (v.setWidth 7))
  else none

@[simp] theorem decodeWire_command (v : Byte) : decodeWire (wireWord false false v) = decodeCommand v := by
  simp [-BitVec.getLsbD_eq_getElem, decodeWire, decodeCommand, wireWord_and_eq_iff,
    wireWord_getLsbD_of_lt, wireWord_setWidth_seven]

@[simp] theorem decodeWire_character (k : Byte) : decodeWire (wireWord true false k) = some (.wWriteCharacter k) := by
  simp [decodeWire, wireWord_and_eq_iff, wireWord_setWidth_eight]

@[simp] theorem decodeWire_status (v : Byte) : decodeWire (wireWord false true v) = some (.wReadStatus v) := by
  simp [decodeWire, wireWord_and_eq_iff, wireWord_setWidth_eight]

@[simp] theorem decodeWire_dataRead (v : Byte) : decodeWire (wireWord true true v) = none := by
  simp [decodeWire, wireWord_and_eq_iff]

/-! ### Each encoder's byte is read back -/

theorem toNat_ddramAddressByte (a : Byte) : (ddramAddressByte a).toNat = 128 + a.toNat % 128 := by
  have low : a.toNat &&& 127 = a.toNat % 128 := Nat.and_two_pow_sub_one_eq_mod _ 7
  have low_lt : a.toNat % 128 < 2 ^ 7 := Nat.mod_lt _ (by decide)
  calc (ddramAddressByte a).toNat = 2 ^ 7 * 1 ||| a.toNat % 128 := by rw [← low]; rfl
    _ = 2 ^ 7 * 1 + a.toNat % 128 := (Nat.two_pow_add_eq_or_of_lt low_lt 1).symm

theorem setWidth_seven_ddramAddressByte (a : Byte) : (ddramAddressByte a).setWidth 7 = a.setWidth 7 := by
  apply BitVec.eq_of_toNat_eq
  simp only [BitVec.toNat_setWidth, toNat_ddramAddressByte]
  omega

@[simp] theorem decodeCommand_entryModeByte (i s : Bool) : decodeCommand (entryModeByte i s) = some (.wEntryModeSet i s) := by
  cases i <;> cases s <;> decide

@[simp] theorem decodeCommand_displayControlByte (d c b : Bool) :
    decodeCommand (displayControlByte d c b) = some (.wDisplayControl d c b) := by
  cases d <;> cases c <;> cases b <;> decide

@[simp] theorem decodeCommand_shiftByte (c r : Bool) : decodeCommand (shiftByte c r) = some (.wCursorOrDisplayShift c r) := by
  cases c <;> cases r <;> decide

@[simp] theorem decodeCommand_functionSetByte (l n f : Bool) :
    decodeCommand (functionSetByte l n f) = some (.wFunctionSet l n f) := by
  cases l <;> cases n <;> cases f <;> decide

theorem decodeCommand_of_highBit {v : Byte} (h : v.getLsbD 7 = true) :
    decodeCommand v = some (.wSetDdramAddress (v.setWidth 7)) := by
  have noOther {mask pattern : Byte} (hm : mask.getLsbD 7 = true) (hp : pattern.getLsbD 7 = false) :
      v &&& mask ≠ pattern := by
    rintro rfl
    rw [BitVec.getLsbD_and, h, hm] at hp
    cases hp
  have address : v &&& 0x80 = 0x80 := (BitVec.and_twoPow v 7).trans (if_pos h)
  rw [decodeCommand]
  iterate 6 rw [if_neg (noOther rfl rfl)]
  exact if_pos address

@[simp] theorem decodeCommand_ddramAddressByte (a : Byte) :
    decodeCommand (ddramAddressByte a) = some (.wSetDdramAddress (a.setWidth 7)) := by
  rw [decodeCommand_of_highBit (by simp [ddramAddressByte]), setWidth_seven_ddramAddressByte]

/-! ### A byte that matches a row is the byte its operand bits make: the mask and the operands cover all eight bits -/

theorem entryModeByte_of_match {v : Byte} (h : v &&& 0xFC = 0x04) : entryModeByte (v.getLsbD 1) (v.getLsbD 0) = v := by
  have parts : entryModeByte (v.getLsbD 1) (v.getLsbD 0) =
      v &&& 0xFC ||| v &&& BitVec.twoPow 8 1 ||| v &&& BitVec.twoPow 8 0 := by
    rw [entryModeByte_eq, h, BitVec.and_twoPow, BitVec.and_twoPow]; rfl
  rw [parts, ← BitVec.and_or_distrib_left, ← BitVec.and_or_distrib_left]
  exact BitVec.and_allOnes

theorem displayControlByte_of_match {v : Byte} (h : v &&& 0xF8 = 0x08) :
    displayControlByte (v.getLsbD 2) (v.getLsbD 1) (v.getLsbD 0) = v := by
  have parts : displayControlByte (v.getLsbD 2) (v.getLsbD 1) (v.getLsbD 0) =
      v &&& 0xF8 ||| v &&& BitVec.twoPow 8 2 ||| v &&& BitVec.twoPow 8 1 ||| v &&& BitVec.twoPow 8 0 := by
    rw [displayControlByte_eq, h, BitVec.and_twoPow, BitVec.and_twoPow, BitVec.and_twoPow]; rfl
  rw [parts, ← BitVec.and_or_distrib_left, ← BitVec.and_or_distrib_left, ← BitVec.and_or_distrib_left]
  exact BitVec.and_allOnes

theorem shiftByte_of_match {v : Byte} (h : v &&& 0xF3 = 0x10) : shiftByte (v.getLsbD 3) (v.getLsbD 2) = v := by
  have parts : shiftByte (v.getLsbD 3) (v.getLsbD 2) =
      v &&& 0xF3 ||| v &&& BitVec.twoPow 8 3 ||| v &&& BitVec.twoPow 8 2 := by
    rw [shiftByte_eq, h, BitVec.and_twoPow, BitVec.and_twoPow]; rfl
  rw [parts, ← BitVec.and_or_distrib_left, ← BitVec.and_or_distrib_left]
  exact BitVec.and_allOnes

theorem functionSetByte_eq_bits (l n f : Bool) :
    functionSetByte l n f = 0x20 ||| (if l then 0x10 else 0) ||| (if n then 8 else 0) ||| (if f then 4 else 0) := by
  cases l <;> cases n <;> cases f <;> decide

theorem functionSetByte_of_match {v : Byte} (h : v &&& 0xE3 = 0x20) :
    functionSetByte (v.getLsbD 4) (v.getLsbD 3) (v.getLsbD 2) = v := by
  have parts : functionSetByte (v.getLsbD 4) (v.getLsbD 3) (v.getLsbD 2) =
      v &&& 0xE3 ||| v &&& BitVec.twoPow 8 4 ||| v &&& BitVec.twoPow 8 3 ||| v &&& BitVec.twoPow 8 2 := by
    rw [functionSetByte_eq_bits, h, BitVec.and_twoPow, BitVec.and_twoPow, BitVec.and_twoPow]; rfl
  rw [parts, ← BitVec.and_or_distrib_left, ← BitVec.and_or_distrib_left, ← BitVec.and_or_distrib_left]
  exact BitVec.and_allOnes

theorem ddramAddressByte_of_match {v : Byte} (h : v &&& 0x80 = 0x80) :
    ddramAddressByte ((v.setWidth 7).setWidth 8) = v := by
  rw [ddramAddressByte_setWidth, ddramAddressByte, ← h, ← BitVec.and_or_distrib_left]
  exact BitVec.and_allOnes

/-- A byte that stands for a command is the byte of that command's encoder. -/
theorem encode_of_decodeCommand {v : Byte} {i : Instr} (h : decodeCommand v = some i) :
    encode i = wireCall false false v := by
  unfold decodeCommand at h
  split_ifs at h with clear home entry display shift function address <;> cases h
  · rw [← show v &&& 0xFF = v from BitVec.and_allOnes, clear]; rfl
  · rw [← show v &&& 0xFF = v from BitVec.and_allOnes, home]; rfl
  · exact congrArg (wireCall false false) (entryModeByte_of_match entry)
  · exact congrArg (wireCall false false) (displayControlByte_of_match display)
  · exact congrArg (wireCall false false) (shiftByte_of_match shift)
  · exact congrArg (wireCall false false) (functionSetByte_of_match function)
  · exact congrArg (wireCall false false) (ddramAddressByte_of_match address)

theorem encode_of_decodeWire {rs rw : Bool} {v : Byte} {i : Instr} (h : decodeWire (wireWord rs rw v) = some i) :
    encode i = wireCall rs rw v := by
  match rs, rw with
  | false, false => exact encode_of_decodeCommand (decodeWire_command v ▸ h)
  | true, false => cases (decodeWire_character v).symm.trans h; rfl
  | false, true => cases (decodeWire_status v).symm.trans h; rfl
  | true, true => cases (decodeWire_dataRead v).symm.trans h

/-! ### The words that have no instruction (R83) -/

/-- Under a mask of its high bits a byte is rounded down to a multiple. -/
theorem toNat_and_highBits (v : Byte) (k : Nat) : (v &&& BitVec.allOnes 8 <<< k).toNat = 2 ^ k * (v.toNat / 2 ^ k) := by
  rw [← BitVec.shiftLeft_ushiftRight, BitVec.toNat_shiftLeft, BitVec.toNat_ushiftRight, Nat.shiftRight_eq_div_pow,
    Nat.shiftLeft_eq, Nat.mul_comm]
  exact Nat.mod_eq_of_lt ((Nat.mul_div_le _ _).trans_lt v.isLt)

theorem toNat_and_three (v : Byte) : (v &&& 3).toNat = v.toNat % 4 := by
  rw [BitVec.toNat_and]
  exact Nat.and_two_pow_sub_one_eq_mod _ 2

theorem toNat_and_highBits_or_three (v : Byte) {k : Nat} (hk : 2 ≤ k) :
    (v &&& (BitVec.allOnes 8 <<< k ||| 3)).toNat = 2 ^ k * (v.toNat / 2 ^ k) + v.toNat % 4 := by
  have low : v.toNat % 4 < 2 ^ k := (Nat.mod_lt _ (by decide)).trans_le (Nat.pow_le_pow_right (n := 2) (by decide) hk)
  rw [BitVec.and_or_distrib_left, BitVec.toNat_or, toNat_and_highBits, toNat_and_three, Nat.two_pow_add_eq_or_of_lt low]

theorem decodeCommand_eq_none_iff (v : Byte) :
    decodeCommand v = none ↔
      v = 0 ∨ v = 3 ∨ (0x10 ≤ v.toNat ∧ v.toNat < 0x40 ∧ v &&& 3 ≠ 0) ∨ (0x40 ≤ v.toNat ∧ v.toNat < 0x80) := by
  have full : (v &&& 0xFF).toNat = 2 ^ 0 * (v.toNat / 2 ^ 0) := toNat_and_highBits v 0
  have entry : (v &&& 0xFC).toNat = 2 ^ 2 * (v.toNat / 2 ^ 2) := toNat_and_highBits v 2
  have display : (v &&& 0xF8).toNat = 2 ^ 3 * (v.toNat / 2 ^ 3) := toNat_and_highBits v 3
  have shift : (v &&& 0xF3).toNat = 2 ^ 4 * (v.toNat / 2 ^ 4) + v.toNat % 4 :=
    toNat_and_highBits_or_three (k := 4) v (by decide)
  have function : (v &&& 0xE3).toNat = 2 ^ 5 * (v.toNat / 2 ^ 5) + v.toNat % 4 :=
    toNat_and_highBits_or_three (k := 5) v (by decide)
  have address : (v &&& 0x80).toNat = 2 ^ 7 * (v.toNat / 2 ^ 7) := toNat_and_highBits v 7
  have range := v.isLt
  simp only [decodeCommand, ite_eq_right_iff, reduceCtorEq, imp_false, ite_eq_iff, and_false, false_or, ne_eq,
    ← BitVec.toNat_inj, toNat_and_three, full, entry, display, shift, function, address, BitVec.reduceToNat]
  omega

/-- Settles O5: RS and RW decide all but the commands, and there R83 lists the bytes that no mask matches. -/
theorem undecodedWordsAreNeverEmitted : Obligations.UndecodedWordsAreNeverEmitted := by
  intro rs rw v
  match rs, rw with
  | false, false => simpa using decodeCommand_eq_none_iff v
  | true, true => simp [decodeWire_dataRead]
  | true, false => simp [decodeWire_character]
  | false, true => simp [decodeWire_status]

end Sys2Proof.Machine
end

section
/-! Calls (spec/30_encoding.md R85): what the decoder reads is what the encoder writes, and the other way; a call with no
instruction is refused for the decoder's reason. -/

namespace Sys2Proof.Machine

/-! ### Operand bytes: what is read is what is written -/

/-- `r` reads a value from no byte but the one `q` writes for it. -/
def Reads {α : Type} (r : Byte → Option α) (q : α → Byte) : Prop := ∀ {x : Byte} {a : α}, r x = some a → x = q a

theorem reads_bool : Reads readBool b2i := readBool_eq_some.mp
theorem reads_dir : Reads readDir dirByte := readDir_eq_some.mp
theorem reads_lines : Reads readLines linesByte := readLines_eq_some.mp
theorem reads_byte : Reads some id := Option.some_inj.mp

theorem operands0_eq_some {i j : Instr} {args : List Byte} (h : operands0 i args = some j) : args = [] ∧ i = j := by
  cases args with
  | nil => exact ⟨rfl, Option.some_inj.mp h⟩
  | cons => cases h

theorem operands1_eq_some {α : Type} {r : Byte → Option α} {q : α → Byte} {f : α → Instr} {i : Instr} {args : List Byte}
    (hr : Reads r q) (h : operands1 r f args = some i) : ∃ a, args = [q a] ∧ f a = i := by
  unfold operands1 at h
  split at h
  · obtain ⟨a, ha, hf⟩ := Option.map_eq_some_iff.mp h
    exact ⟨a, by rw [hr ha], hf⟩
  · cases h

theorem operands2_eq_some {α β : Type} {r : Byte → Option α} {r' : Byte → Option β} {q : α → Byte} {q' : β → Byte}
    {f : α → β → Instr} {i : Instr} {args : List Byte} (hr : Reads r q) (hr' : Reads r' q')
    (h : operands2 r r' f args = some i) : ∃ a b, args = [q a, q' b] ∧ f a b = i := by
  unfold operands2 at h
  split at h
  · obtain ⟨a, ha, h⟩ := Option.bind_eq_some_iff.mp h
    obtain ⟨b, hb, hf⟩ := Option.map_eq_some_iff.mp h
    exact ⟨a, b, by rw [hr ha, hr' hb], hf⟩
  · cases h

theorem operands3_eq_some {α : Type} {r : Byte → Option α} {q : α → Byte} {f : α → Bool → Bool → Instr} {i : Instr}
    {args : List Byte} (hr : Reads r q) (h : operands3 r f args = some i) :
    ∃ a b c, args = [q a, b2i b, b2i c] ∧ f a b c = i := by
  unfold operands3 at h
  split at h
  · obtain ⟨a, ha, h⟩ := Option.bind_eq_some_iff.mp h
    obtain ⟨b, hb, h⟩ := Option.bind_eq_some_iff.mp h
    obtain ⟨c, hc, hf⟩ := Option.map_eq_some_iff.mp h
    exact ⟨a, b, c, by rw [hr ha, reads_bool hb, reads_bool hc], hf⟩
  · cases h

theorem encode_of_decodeBytes {k : Nat} {args : List Byte} {i : Instr} (h : decodeBytes k args = some i) :
    encode i = hostCall (BitVec.ofNat 8 k) args := by
  unfold decodeBytes at h
  split at h
  case h_1 | h_4 | h_8 | h_10 | h_11 | h_12 | h_20 =>
    obtain ⟨rfl, rfl⟩ := operands0_eq_some h; rfl
  case h_2 => obtain ⟨d, rfl, rfl⟩ := operands1_eq_some reads_dir h; rfl
  case h_5 | h_6 | h_7 => obtain ⟨b, rfl, rfl⟩ := operands1_eq_some reads_bool h; rfl
  case h_3 | h_17 | h_18 | h_19 => obtain ⟨v, rfl, rfl⟩ := operands1_eq_some reads_byte h; rfl
  case h_9 => obtain ⟨rs, v, rfl, rfl⟩ := operands2_eq_some reads_bool reads_byte h; rfl
  case h_13 | h_15 => obtain ⟨a, b, rfl, rfl⟩ := operands2_eq_some reads_bool reads_bool h; rfl
  case h_14 | h_16 => obtain ⟨a, b, c, rfl, rfl⟩ := operands3_eq_some reads_bool h; rfl
  case h_21 => obtain ⟨n, c, b, rfl, rfl⟩ := operands3_eq_some reads_lines h; rfl
  case h_22 => cases h; rfl
  case h_23 => cases h

/-! ### Any call -/

/-- The two low bits spell a byte below 4: the second byte of a wire call is RW and RS. -/
theorem highByte_of_lt_four {hi : Byte} (h : hi.toNat < 4) : b2i (hi.getLsbD 1) <<< 1 ||| b2i (hi.getLsbD 0) = hi := by
  have small : hi = 0 ∨ hi = 1 ∨ hi = 2 ∨ hi = 3 := by bv_omega
  obtain rfl | rfl | rfl | rfl := small <;> decide

theorem decodeOperation_eq_some {op : Nat} {args : List Byte} {ints : List Int} {i : Instr}
    (h : decodeOperation op args ints = some i) :
    (ints = [] ∧ decodeBytes op args = some i) ∨
    (op = 0x16 ∧ args = [] ∧ ∃ row column, ints = [row, column] ∧ i = .setCursorLocation row column) := by
  unfold decodeOperation at h
  split at h
  · exact .inl ⟨rfl, h⟩
  · split at h
    case isTrue ho =>
      obtain ⟨rfl, rfl⟩ := operands0_eq_some h
      exact .inr ⟨ho, rfl, _, _, rfl, rfl⟩
    case isFalse => cases h
  · cases h

/-- Everything a call that has an instruction can be: a wire word, an operation with operand bytes alone, or a cursor call. -/
theorem decode_eq_ok {c : Call} {i : Instr} (h : decode c = .ok i) :
    (∃ rs rw v, c = wireCall rs rw v ∧ decodeWire (wireWord rs rw v) = some i) ∨
    (∃ op args, c = hostCall op args ∧ decodeBytes op.toNat args = some i) ∨
    (∃ row column, c = ⟨.h, [0x16], [row, column]⟩ ∧ i = .setCursorLocation row column) := by
  obtain ⟨format, bytes, ints⟩ := c
  unfold decode at h
  split at h
  case h_1 lo hi hf hb hn =>
    cases hf; cases hb; cases hn
    split at h
    case isTrue small =>
      split at h
      case h_1 hw =>
        cases h
        exact .inl ⟨_, _, _, by rw [wireCall, highByte_of_lt_four small], hw⟩
      case h_2 => cases h
    case isFalse => cases h
  case h_4 op args hf hb =>
    cases hf; cases hb
    split at h
    case isTrue =>
      split at h
      case h_1 hop =>
        cases h
        obtain ⟨rfl, hd⟩ | ⟨ho, rfl, row, column, rfl, rfl⟩ := decodeOperation_eq_some hop
        · exact .inr (.inl ⟨op, args, rfl, hd⟩)
        · obtain rfl : op = 0x16 := BitVec.eq_of_toNat_eq ho
          exact .inr (.inr ⟨row, column, rfl, rfl⟩)
      case h_2 => cases h
    case isFalse => cases h
  all_goals cases h

/-! ### The encoding of an instruction -/

theorem decode_wireCall_of_decodeWire {rs rw : Bool} {v : Byte} {i : Instr} (h : decodeWire (wireWord rs rw v) = some i) :
    decode (wireCall rs rw v) = .ok i := by
  rw [decode_wireCall, h]

theorem decode_hostCall_of_decodeBytes {op : Byte} {args : List Byte} {i : Instr} (hop : op.toNat < 0x17)
    (h : decodeBytes op.toNat args = some i) : decode (hostCall op args) = .ok i := by
  simpa using decode_hostCall hop h

/-- Settles O3: the encoder's words and operand bytes are each read back. -/
theorem decodeOfEncode : Obligations.DecodeOfEncode := by
  intro i
  cases i with
  | wClearDisplay | wReturnHome => rfl
  | wEntryModeSet | wDisplayControl | wCursorOrDisplayShift | wFunctionSet | wSetDdramAddress | wWriteCharacter
  | wReadStatus =>
    exact decode_wireCall_of_decodeWire (by simp)
  | configure | readByte | pollBusy | waitNotBusy | clearDisplay | returnHome | readCharacter | printString =>
    exact decode_hostCall_of_decodeBytes (by decide) rfl
  | setBusDirection | writeByte | setRegisterSelect | setReadWrite | setEnable | setDdramAddress | writeCharacter
  | setCgramAddress =>
    exact decode_hostCall_of_decodeBytes (by decide) (by simp [decodeBytes, operands1])
  | executeInstruction | entryModeSet | cursorOrDisplayShift =>
    exact decode_hostCall_of_decodeBytes (by decide) (by simp [decodeBytes, operands2])
  | displayControl | functionSet | initialise =>
    exact decode_hostCall_of_decodeBytes (by decide) (by simp [decodeBytes, operands3])
  | setCursorLocation row column => exact decode_cursorCall row column

/-- Settles O4: each form a decoded call can have is the encoder's. -/
theorem encodeOfDecode : Obligations.EncodeOfDecode := by
  intro c i h
  obtain ⟨rs, rw, v, rfl, hw⟩ | ⟨op, args, rfl, hb⟩ | ⟨row, column, rfl, rfl⟩ := decode_eq_ok h
  · exact encode_of_decodeWire hw
  · simpa using encode_of_decodeBytes hb
  · rfl

/-- Settles O1: the words are those the encoder writes. -/
theorem sampleWordsDecode : Obligations.SampleWordsDecode :=
  ⟨decodeOfEncode .wClearDisplay, decodeOfEncode .wReturnHome, decodeOfEncode (.wEntryModeSet true false),
    decodeOfEncode (.wDisplayControl true true false), decodeOfEncode (.wCursorOrDisplayShift true false),
    decodeOfEncode (.wFunctionSet true true false), decodeOfEncode (.wSetDdramAddress 5),
    decodeOfEncode (.wWriteCharacter 0x6C), decodeOfEncode (.wReadStatus 0x80), decodeOfEncode .clearDisplay,
    decodeOfEncode (.setEnable true)⟩

/-- Settles O2: the packing and the address byte are sums, the other words are the encoder's by definition. -/
theorem wireWords : Obligations.WireWords := by
  refine ⟨toNat_wireWord, rfl, rfl, fun a => ⟨_, rfl, ?_⟩, toNat_ddramAddressByte, fun _ => rfl⟩
  rw [toNat_ddramAddressByte, BitVec.toNat_setWidth]
  omega

/-! ### Refused calls -/

theorem decode_of_unused_selector {op : Byte} (args : List Byte) (ints : List Int) (h : 0x17 ≤ op.toNat) :
    decode ⟨.h, op :: args, ints⟩ = .error .unknownSelector := if_neg (by omega)

theorem step_of_undecoded_call {s : State} {c : Call} {rest : List Call} {e : DecodeError} (hs : s.seq = .idle)
    (hc : s.calls = c :: rest) (hd : decode c = .error e) : step s = .refused (refusalOf e) := by
  simp only [step, hs, hc, fetchCall, hd]

/-- Settles O8: the step refuses for the decoder's reason. -/
theorem unusedSelectorsRefused : Obligations.UnusedSelectorsRefused := fun _ _ args ints _ hs hc h =>
  step_of_undecoded_call hs hc (decode_of_unused_selector args ints h)

end Sys2Proof.Machine
end

section
/-! The operations of the bus layer (spec/40_bus_layer.md R100 to R109): the calls that are refused, one rule for each operation that says
what it does after the controller's gap and where it stops, and from these what a call of HOST does. -/

namespace Sys2Proof.Machine

/-! ### Calls that are refused, and calls that are run -/

/-- Every operation but `configure` and `initialize` begins with the lifecycle checks of R100 and R185. -/
theorem exec_eq_call {i : Instr} (hc : i ≠ .configure) (hi : ∀ n c b, i ≠ .initialise n c b) :
    ∃ k, ∀ s, exec i s = call k s := by
  cases i with
  | configure => exact absurd rfl hc
  | initialise n c b => exact absurd rfl (hi n c b)
  | _ => exact ⟨_, fun s => by rw [exec]; rfl⟩

theorem call_notConfigured {s : State} (hs : s.seq = .idle) (hl : s.life ≠ .ready) (k : State → Result) :
    call k s = .refused .notConfigured := by
  simp [call, hs, hl]

theorem callFirst_configureTwice {s : State} (hs : s.seq = .idle) (hl : s.life ≠ .unconfigured) (k : State → Result) :
    callFirst k s = .refused .configureTwice := by
  simp [callFirst, hs, hl]

/-- Settles O16: the lifecycle check comes before the operation's own. -/
theorem notConfiguredRefused : Obligations.NotConfiguredRefused := by
  intro s i hs hl hc hi
  obtain ⟨k, hk⟩ := exec_eq_call hc hi
  rw [hk, call_notConfigured hs hl]

/-- Settles O17: both operations begin with the check of R101. -/
theorem secondConfigureRefused : Obligations.SecondConfigureRefused := fun _ _ _ _ hs hl =>
  ⟨callFirst_configureTwice hs hl _, callFirst_configureTwice hs hl _⟩

section Accepted

variable {s w : State} (r : State → Ret) {f : State → Result}

theorem call_returning_next (ha : s.accepts) (h : f s.entered = .next w) :
    call (fun s => returning r (f s)) s = .next (finish (r w) w) := by
  rw [call_accepts ha, h]; rfl

theorem call_returning_fault {x : Fault} (ha : s.accepts) (h : f s.entered = .fault x) :
    call (fun s => returning r (f s)) s = .fault x := by
  rw [call_accepts ha, h]; rfl

theorem call_returning_refused {q : Refusal} (ha : s.accepts) (h : f s.entered = .refused q) :
    call (fun s => returning r (f s)) s = .refused q := by
  rw [call_accepts ha, h]; rfl

end Accepted

/-! ### What the controller's gap does not read -/

/-- `s` with other pins, SAMPLE and TRACE. -/
def State.onBus (s : State) (p : Pins) (x : Option Byte) (tr : List Event) : State :=
  { s with pins := p, sample := x, trace := tr }

/-- The gap commutes with a change of the pins, SAMPLE and TRACE. -/
theorem ctlGap_onBus (s : State) (p : Pins) (x : Option Byte) (tr : List Event) :
    ctlGap (s.onBus p x tr) = andThen (ctlGap s) fun u => .next (u.onBus p x tr) := by
  simp only [ctlGap, ctlComplete, State.onBus]
  split
  · rfl
  · rfl
  · split
    · rfl
    · rfl
    · split <;> rfl
  · rfl

/-- After the gap before it, a bus-layer operation leaves all but the pins, SAMPLE, TRACE and the count of draws alone. -/
theorem busReturn_onBus {s u : State} (hu : ctlGap s.entered = .next u) (n : Nat) (p : Pins) (x : Option Byte) (tr : List Event)
    (r : Ret) : busReturn s u (finish r ({ u with draws := n }.onBus p x tr)) r := by
  rw [ctlGap_frame hu]
  exact ⟨rfl, rfl, rfl, rfl, rfl, rfl, rfl, rfl, rfl⟩

/-! ### One rule for each operation: its event after the gap -/

section Rules

variable (s : State) {p : Pins} (x : Option Byte) (tr : List Event)

theorem setRegisterSelect_onBus (b : Bool) (low : p.e = false) :
    setRegisterSelect b (s.onBus p x tr) =
      andThen (ctlGap s) fun u => .next (u.onBus { p with rs := b } x (tr ++ [.rs b])) := by
  rw [setRegisterSelect, if_neg (by simp [State.onBus, low]), putRs, ctlGap_onBus]
  cases ctlGap s <;> rfl

theorem setReadWrite_onBus (b : Bool) (low : p.e = false) :
    setReadWrite b (s.onBus p x tr) =
      andThen (ctlGap s) fun u => .next (u.onBus { p with rw := b } x (tr ++ [.rw b])) := by
  rw [setReadWrite, if_neg (by simp [State.onBus, low]), putRw, ctlGap_onBus]
  cases ctlGap s <;> rfl

theorem writeByte_onBus (v : Byte) (hd : p.dir = .output) (low : p.e = false) :
    writeByte v (s.onBus p x tr) =
      andThen (ctlGap s) fun u => .next (u.onBus { p with dout := v } x (tr ++ [.data v])) := by
  rw [writeByte, if_neg (by simp [State.onBus, hd]), if_neg (by simp [State.onBus, low]), putData, ctlGap_onBus]
  cases ctlGap s <;> rfl

theorem delay_onBus (k : Wait) :
    delay k (s.onBus p x tr) = andThen (ctlGap s) fun u => .next (u.onBus p x (tr ++ [.delay k])) := by
  rw [delay, ctlGap_onBus]
  cases ctlGap s <;> rfl

/-- Whether the switch draws a byte for DOUT is for `switched` to say (R16). -/
theorem setBusDirection_onBus (d : BusDir) (low : p.e = false) :
    setBusDirection d (s.onBus p x tr) =
      andThen (ctlGap s) fun u => .next ((switched d (u.onBus p x tr)).log (.dir d)) := by
  rw [setBusDirection, if_neg (by simp [State.onBus, low]), putDir, ctlGap_onBus]
  cases ctlGap s <;> rfl

/-- R44: the byte is the level of the lines after the gap. -/
theorem takeSample_onBus (hd : p.dir = .input) :
    takeSample (s.onBus p x tr) = andThen (ctlGap s) fun u =>
      .next ({ u with draws := u.draws + 1 }.onBus p (some (lineLevel (u.onBus p x tr)))
        (tr ++ [Event.sample (lineLevel (u.onBus p x tr))])) := by
  rw [takeSample, ctlGap_onBus]
  cases ctlGap s with
  | next u => simp only [andThen_next, State.onBus, hd, State.log]
  | fault f => rfl
  | refused q => rfl

/-- What the edge amounts to is for `enableEdge` to say (R108). -/
theorem setEnable_onBus (b : Bool) :
    setEnable b (s.onBus p x tr) =
      andThen (ctlGap s) fun u => enableEdge p.e b (u.onBus { p with e := b } x (tr ++ [.e b])) := by
  rw [setEnable, ctlGap_onBus]
  cases ctlGap s <;> rfl

end Rules

/-! ### The edges of enable, R108 -/

section Edges

variable {s : State} {old b : Bool}

/-- An edge that ends no write pulse and starts no contention. -/
theorem enableEdge_free (hw : ¬ (old = true ∧ b = false ∧ s.pins.rw = false))
    (hc : ¬ (old = false ∧ b = true ∧ s.pins.rw = true ∧ s.pins.dir = .output)) : enableEdge old b s = .next s := by
  rw [enableEdge, if_neg (by simpa [and_assoc] using hw), if_neg (by simpa [and_assoc] using hc)]

theorem enableEdge_writeWithBusInput (hrw : s.pins.rw = false) (hd : s.pins.dir = .input) :
    enableEdge true false s = .fault .writeWithBusInput := by
  simp [enableEdge, hrw, hd]

/-- R52: the latch of a busy controller. -/
theorem enableEdge_writeWhileBusy (hrw : s.pins.rw = false) (hd : s.pins.dir = .output) (hb : s.ctl.bf = true) :
    enableEdge true false s = .fault .writeWhileBusy := by
  simp [enableEdge, hrw, hd, ctlLatch, hb]

theorem enableEdge_busContention (hrw : s.pins.rw = true) (hd : s.pins.dir = .output) :
    enableEdge false true s = .fault .busContention := by
  simp [enableEdge, hrw, hd]

/-- The rule of such an edge. -/
theorem setEnable_onBus_free (s : State) {p : Pins} (x : Option Byte) (tr : List Event)
    (hw : ¬ (p.e = true ∧ b = false ∧ p.rw = false))
    (hc : ¬ (p.e = false ∧ b = true ∧ p.rw = true ∧ p.dir = .output)) :
    setEnable b (s.onBus p x tr) =
      andThen (ctlGap s) fun u => .next (u.onBus { p with e := b } x (tr ++ [.e b])) := by
  rw [setEnable_onBus]
  exact congrArg _ (funext fun u => enableEdge_free hw hc)

end Edges

/-! ### What a call of HOST does -/

/-- Settles O20: a failed claim ends `configure` after the gap before it. -/
theorem configureReportsFailedClaim : Obligations.ConfigureReportsFailedClaim := by
  intro s u hs hl hc hu
  obtain ⟨c, due, n, rfl⟩ : ∃ c due n, u = { s.entered with ctl := c, env := { s.env with due := due }, draws := n } :=
    ⟨_, _, _, ctlGap_frame hu⟩
  have run := callFirst_accepts hs hl (configureThen fun s => .next (finish .nothing s))
  rw [configureThen, hu, andThen_next, if_neg (by simp [hc])] at run
  exact ⟨_, run, rfl, rfl, rfl, rfl, rfl, rfl, rfl, rfl⟩

/-- Settles O21: the switch touches DIR, and DOUT only where DIR becomes OUTPUT. -/
theorem directionSwitchCompletes : Obligations.DirectionSwitchCompletes := by
  intro s d ha
  refine ⟨fun he => call_returning_fault _ ha (if_pos he), fun he u hu => ?_⟩
  have run := setBusDirection_onBus s.entered s.sample s.trace d he
  rw [hu, andThen_next, switched_frame] at run
  refine ⟨_, call_returning_next _ ha run, busReturn_onBus hu _ _ _ _ _, rfl, rfl, rfl, rfl, rfl, fun h => ?_, rfl⟩
  refine (switched_dout d _).resolve_right fun ⟨hin, hout⟩ => ?_
  obtain rfl | hd := h
  · cases hout
  · exact absurd (hin.symm.trans hd) (by decide)

/-- Settles O22: DOUT is the byte, so data line `i` carries its bit `i`. -/
theorem writeByteCompletes : Obligations.WriteByteCompletes := by
  intro s v ha
  refine ⟨fun hd => call_returning_refused _ ha (if_pos (by simp [hd])), fun hd he => ?_, fun hd he u hu => ?_⟩
  · exact call_returning_fault _ ha ((if_neg (by simp [hd])).trans (if_pos he))
  · have run := writeByte_onBus s.entered s.sample s.trace v hd he
    rw [hu, andThen_next] at run
    have returned := busReturn_onBus hu u.draws { s.pins with dout := v } s.sample (s.trace ++ [.data v]) .nothing
    refine ⟨_, call_returning_next _ ha run, returned, rfl, rfl, fun hwf i hi => ?_⟩
    obtain ⟨hcfg, -⟩ := returned
    rw [← hcfg] at hwf ⊢
    exact (dataLinesCarryDout _ i hwf hi).trans (if_pos hd)

/-- R44: bit 7 of a status read is the busy flag. -/
theorem lineLevel_onBus (s : State) {p : Pins} (x : Option Byte) (tr : List Event) (he : p.e = true) (hrw : p.rw = true)
    (hrs : p.rs = false) : lineLevel (s.onBus p x tr) = statusByte s.ctl.bf s.draws := by
  simp [lineLevel, State.onBus, Pins.ctlDrives, he, hrw, hrs]

/-- Settles O23: the byte returned is the level sampled after the gap. -/
theorem readByteCompletes : Obligations.ReadByteCompletes := by
  intro s ha
  refine ⟨fun hd => call_returning_refused _ ha (if_pos (by simp [hd])), fun hd u hu => ?_⟩
  have run : readByte s.entered = _ :=
    (if_neg (by simp [hd])).trans (takeSample_onBus s.entered s.sample s.trace hd)
  rw [hu, andThen_next] at run
  refine ⟨_, _, call_returning_next _ ha run, busReturn_onBus hu _ _ _ _ _, rfl, rfl, fun ⟨he, hrw, hrs⟩ => ?_⟩
  exact (congrArg busy (lineLevel_onBus u s.sample s.trace he hrw hrs)).trans (busy_statusByte _ _)

/-- Settles O24: each of the two operations is its event after the gap. -/
theorem selectPinsComplete : Obligations.SelectPinsComplete := by
  intro s b ha
  refine ⟨fun he => ⟨call_returning_fault _ ha (if_pos he), call_returning_fault _ ha (if_pos he)⟩, fun he u hu => ⟨?_, ?_⟩⟩
  · have run := setRegisterSelect_onBus s.entered s.sample s.trace b he
    rw [hu, andThen_next] at run
    exact ⟨_, call_returning_next _ ha run, busReturn_onBus hu u.draws _ _ _ _, rfl, rfl⟩
  · have run := setReadWrite_onBus s.entered s.sample s.trace b he
    rw [hu, andThen_next] at run
    exact ⟨_, call_returning_next _ ha run, busReturn_onBus hu u.draws _ _ _ _, rfl, rfl⟩

/-- Settles O25: the edge is free. -/
theorem enableCompletesWithoutLatch : Obligations.EnableCompletesWithoutLatch := by
  intro s u b ha hu hw hc
  have run := setEnable_onBus_free s.entered s.sample s.trace hw hc
  rw [hu, andThen_next] at run
  exact ⟨_, call_returning_next _ ha run, busReturn_onBus hu u.draws _ _ _ _, rfl, rfl⟩

/-- Settles O27: each fault is one edge. -/
theorem enableEdgeFaults : Obligations.EnableEdgeFaults := by
  intro s u ha hu
  have run (b : Bool) := setEnable_onBus s.entered (p := s.pins) s.sample s.trace b
  simp only [hu, andThen_next] at run
  refine ⟨fun he hrw hd => ?_, fun he hrw hd hb => ?_, fun he hrw hd => ?_⟩ <;> rw [he] at run
  · exact call_returning_fault _ ha ((run _).trans (enableEdge_writeWithBusInput hrw hd))
  · exact call_returning_fault _ ha ((run _).trans (enableEdge_writeWhileBusy hrw hd hb))
  · exact call_returning_fault _ ha ((run _).trans (enableEdge_busContention hrw hd))

theorem pollBusy_duringWrite {s : State} (h : s.pins.dir = .output ∨ s.pins.e = true) :
    pollBusy s = .fault .pollDuringWrite :=
  if_pos (h.imp_left fun hd => by simp [hd])

/-- A busy-wait begins with a poll. -/
theorem busyWait_duringWrite {s : State} (h : s.pins.dir = .output ∨ s.pins.e = true) (stack : List Frame) (k : State → Result)
    (fuel n : Nat) : busyWait stack k (fuel + 1) n s = .fault .pollDuringWrite := by
  rw [busyWait, pollBusy_duringWrite h, andThen_fault]

/-- Settles O29: all three begin with the check of R109. -/
theorem pollDuringWriteFaults : Obligations.PollDuringWriteFaults := by
  intro s x ha h
  have polled := pollBusy_duringWrite (s := s.entered) h
  exact ⟨call_returning_fault _ ha polled, call_returning_fault _ ha polled,
    (call_accepts ha _).trans (busyWait_duringWrite (s := s.entered) h _ _ _ _)⟩

end Sys2Proof.Machine
end

section
/-! A poll (spec/40_bus_layer.md R109): six rules of the bus layer in a row, so that all that matters of it is what the controller does in
its six gaps (spec/20_memory.md R53). -/

namespace Sys2Proof.Machine

/-- The next `n` gaps, with nothing of the block's between them. -/
def gaps : Nat → State → Result
  | 0, s => .next s
  | n + 1, s => andThen (ctlGap s) (gaps n)

theorem andThen_assoc (r : Result) (f g : State → Result) :
    andThen (andThen r f) g = andThen r fun s => andThen (f s) g := by
  cases r <;> rfl

/-- A poll is its six gaps: the sample shows the busy flag after five of them, and draws before the sixth. -/
theorem pollBusy_onBus (s : State) {p : Pins} (x : Option Byte) (tr : List Event) (hd : p.dir = .input) (he : p.e = false) :
    pollBusy (s.onBus p x tr) = andThen (gaps 5 s) fun u => andThen (ctlGap { u with draws := u.draws + 1 }) fun w =>
      .next (w.onBus { p with rs := false, rw := true } (some (statusByte u.ctl.bf u.draws))
        (tr ++ pollEvents (statusByte u.ctl.bf u.draws))) := by
  rw [pollBusy, if_neg (by simp [State.onBus, hd, he])]
  simp [setRegisterSelect_onBus, setReadWrite_onBus, setEnable_onBus_free, delay_onBus, takeSample_onBus, lineLevel_onBus,
    andThen_assoc, gaps, hd, he, pollEvents]

/-! ### What the controller does in some gaps, R53 -/

/-- Nothing is pending, or the controller never completes. -/
theorem ctlGap_still {s : State} (h : s.ctl.pend = .none ∨ s.env.due = none) : ctlGap s = .next s :=
  h.elim ctlGap_idle ctlGap_never

theorem gaps_still {s : State} (h : s.ctl.pend = .none ∨ s.env.due = none) (n : Nat) : gaps n s = .next s := by
  induction n with
  | zero => rfl
  | succ n ih => rw [gaps, ctlGap_still h, andThen_next, ih]

/-- The word pending in `C`, if any, has an effect that is no fault, whatever it draws. -/
def Ctl.willComplete (cfg : Config) (C : Ctl) : Prop :=
  ∀ n rs v, C.pend = .word rs v → ∃ c, ctlEffect cfg n rs v C = .ok c

theorem ctlComplete_answers {s : State} (hp : s.ctl.pend ≠ .none) (hok : s.ctl.willComplete s.cfg) :
    ∃ u, ctlComplete s = .next u ∧ u.ctl.bf = false ∧ u.ctl.pend = .none := by
  unfold ctlComplete
  split
  · exact absurd ‹_› hp
  · exact ⟨_, rfl, rfl, rfl⟩
  · next rs v hw =>
    obtain ⟨c, hc⟩ := hok s.draws rs v hw
    rw [hc]
    exact ⟨_, rfl, rfl, rfl⟩

/-- A count that reaches beyond the gaps. -/
theorem gaps_count {s : State} (hp : s.ctl.pend ≠ .none) (n : Nat) {d : Nat} (hd : s.env.due = some (d + n)) :
    gaps n s = .next { s with env := { s.env with due := some d } } := by
  induction n generalizing s with
  | zero => rw [gaps, ← show s.env.due = some d from hd]
  | succ n ih =>
    rw [gaps, ctlGap_count (n := d + n) hp hd, andThen_next]
    exact ih (s := { s with env := { s.env with due := some (d + n) } }) hp rfl

/-- A count that runs down inside the gaps. -/
theorem gaps_complete {s : State} (hp : s.ctl.pend ≠ .none) (hok : s.ctl.willComplete s.cfg) {d n : Nat} (hn : d < n)
    (hd : s.env.due = some d) : ∃ u, gaps n s = .next u ∧ u.ctl.bf = false ∧ u.ctl.pend = .none := by
  obtain ⟨n, rfl⟩ := Nat.exists_eq_succ_of_ne_zero (Nat.ne_zero_of_lt hn)
  induction d generalizing s n with
  | zero =>
    obtain ⟨u, hu, hb, hpu⟩ := ctlComplete_answers hp hok
    rw [gaps, ctlGap_now hp hd, hu, andThen_next, gaps_still (.inl hpu)]
    exact ⟨u, rfl, hb, hpu⟩
  | succ d ih =>
    rw [gaps, ctlGap_count hp hd, andThen_next]
    obtain ⟨n, rfl⟩ := Nat.exists_eq_succ_of_ne_zero (Nat.ne_zero_of_lt (Nat.lt_of_succ_lt_succ hn))
    exact ih (s := { s with env := { s.env with due := some d } }) hp hok rfl n (Nat.lt_of_succ_lt_succ hn)

theorem ctlGap_keeps {s u : State} (h : ctlGap s = .next u) : u.cfg = s.cfg ∧ u.life = s.life ∧ u.calls = s.calls := by
  rw [ctlGap_frame h]
  exact ⟨rfl, rfl, rfl⟩

theorem gaps_keeps {n : Nat} {s u : State} (h : gaps n s = .next u) :
    u.cfg = s.cfg ∧ u.life = s.life ∧ u.calls = s.calls := by
  induction n generalizing s with
  | zero => cases h; exact ⟨rfl, rfl, rfl⟩
  | succ n ih =>
    obtain ⟨v, hv, hu⟩ := andThen_eq_next h
    obtain ⟨hc, hl, hk⟩ := ctlGap_keeps hv
    obtain ⟨hc', hl', hk'⟩ := ih hu
    exact ⟨hc'.trans hc, hl'.trans hl, hk'.trans hk⟩

/-! ### The six gaps of a poll -/

/-- The gaps of a poll of `s` lead to `u` at the sample, and to `w` at its end. -/
def PollGaps (s u w : State) : Prop := gaps 5 s = .next u ∧ ctlGap { u with draws := u.draws + 1 } = .next w

theorem pollGaps_still {s : State} (h : s.ctl.pend = .none ∨ s.env.due = none) :
    PollGaps s s { s with draws := s.draws + 1 } :=
  ⟨gaps_still h 5, ctlGap_still h⟩

/-- The count reaches beyond the sample: the controller completes, if at all, in the sixth gap. -/
theorem pollGaps_late {s : State} (hp : s.ctl.pend ≠ .none) {d : Nat} (hd : s.env.due = some (d + 5))
    (hok : d = 0 → s.ctl.willComplete s.cfg) : ∃ u w, PollGaps s u w ∧ u.ctl.bf = s.ctl.bf := by
  have five := gaps_count hp 5 hd
  cases d with
  | zero =>
    obtain ⟨w, hw, -⟩ := ctlComplete_answers
      (s := { s with env := { s.env with due := some 0 }, draws := s.draws + 1 }) hp (hok rfl)
    exact ⟨_, w, ⟨five, (ctlGap_now (by exact hp) rfl).trans hw⟩, rfl⟩
  | succ d => exact ⟨_, _, ⟨five, ctlGap_count hp rfl⟩, rfl⟩

/-- The count runs down before the sample, and the sixth gap does nothing more. -/
theorem pollGaps_prompt {s : State} (hp : s.ctl.pend ≠ .none) {d : Nat} (hd : s.env.due = some d) (h5 : d < 5)
    (hok : s.ctl.willComplete s.cfg) :
    ∃ u w, PollGaps s u w ∧ u.ctl.bf = false ∧ w.ctl.bf = false ∧ w.ctl.pend = .none := by
  obtain ⟨u, hu, hb, hpu⟩ := gaps_complete hp hok h5 hd
  exact ⟨u, _, ⟨hu, ctlGap_still (.inl hpu)⟩, hb, hb, hpu⟩

/-- Where no completion in the six gaps is a fault, the busy flag at the sample is the one before the poll, or 0 where the
controller has completed by then. -/
theorem pollGaps_answer {s : State} (hok : ∀ d, s.env.due = some d → d < 6 → s.ctl.willComplete s.cfg) :
    ∃ u w, PollGaps s u w ∧
      (s.ctl.pend = .none ∨ s.env.due = none → w.ctl = s.ctl ∧ u.ctl.bf = s.ctl.bf) ∧
      (∀ d, s.ctl.pend ≠ .none → s.env.due = some d → 5 ≤ d → u.ctl.bf = s.ctl.bf) ∧
      (∀ d, s.ctl.pend ≠ .none → s.env.due = some d → d < 5 →
        u.ctl.bf = false ∧ w.ctl.bf = false ∧ w.ctl.pend = .none) := by
  by_cases still : s.ctl.pend = .none ∨ s.env.due = none
  · refine ⟨s, _, pollGaps_still still, fun _ => ⟨rfl, rfl⟩, fun _ _ _ _ => rfl, fun d hp hd _ => ?_⟩
    cases (still.resolve_left hp).symm.trans hd
  · obtain ⟨hp, hdue⟩ := not_or.mp still
    obtain ⟨d, hd⟩ := Option.ne_none_iff_exists'.mp hdue
    have count : ∀ e, s.env.due = some e → e = d := fun e he => Option.some_inj.mp (he.symm.trans hd)
    by_cases h5 : d < 5
    · obtain ⟨u, w, hg, hseen⟩ := pollGaps_prompt hp hd h5 (hok d hd (by omega))
      exact ⟨u, w, hg, fun h => absurd h still, fun e _ he _ => absurd (count e he) (by omega), fun _ _ _ _ => hseen⟩
    · obtain ⟨e, rfl⟩ := Nat.exists_eq_add_of_le' (not_lt.mp h5)
      obtain ⟨u, w, hg, hseen⟩ := pollGaps_late hp hd fun h => hok _ hd (by omega)
      exact ⟨u, w, hg, fun h => absurd h still, fun _ _ _ _ => hseen, fun e _ he _ => absurd (count e he) (by omega)⟩

/-- Settles O28: bit 7 of the sample is the busy flag after five gaps. -/
theorem pollCompletes : Obligations.PollCompletes := by
  intro s i x ha hd he hok hi
  obtain ⟨u, w, ⟨hu, hw⟩, hstill, hlate, hprompt⟩ :=
    pollGaps_answer (s := s.entered) fun d hdue h6 n rs v hp => hok d n rs v hp hdue h6
  have polled := pollBusy_onBus s.entered s.sample s.trace hd he
  rw [hu, andThen_next, hw, andThen_next] at polled
  have form : exec i s = exec .pollBusy s := by obtain rfl | rfl := hi <;> rfl
  have bit : (statusByte u.ctl.bf u.draws).getLsbD 7 = u.ctl.bf := busy_statusByte _ _
  obtain ⟨hcu, hlu, hku⟩ := gaps_keeps hu
  obtain ⟨hcw, hlw, hkw⟩ := ctlGap_keeps hw
  refine ⟨_, statusByte u.ctl.bf u.draws, form.trans (call_returning_next _ ha polled), rfl, rfl, rfl,
    hcw.trans hcu, hlw.trans hlu, hkw.trans hku, rfl, ?_⟩
  rw [bit]
  exact ⟨hstill, hlate, hprompt⟩

end Sys2Proof.Machine
end

section
/-! The instruction layer with a controller that answers (spec/41_instruction_layer.md R120 to R123, R131, R132): R120 in closed
form for every word whose effect is no fault, the transactions and the hazards of its events (R48, R210 to R218), and the
busy-wait alone. -/

namespace Sys2Proof.Machine

/-! ### One word -/

/-- R120 in closed form, for any word whose effect is no fault. -/
theorem exec_word_executed {s : State} {i : Instr} {rs : Bool} {v : Byte} {e : Nat → Ctl} (hs : s.runnable)
    (hw : wordOf i = some (rs, v)) (he : ∀ n, ctlEffect s.cfg n rs v s.ctl = .ok (e n)) :
    ∃ p, exec i s =
      .next (finish .nothing (s.executed rs v p (effectDraws rs v) (ctlDone (e (s.draws + 1 + p))))) := by
  obtain ⟨d, hn⟩ := hs.next
  obtain ⟨⟨ha, hq, hb, hp⟩, hlim, -⟩ := hs
  obtain ⟨ps, hx⟩ := exec_eq_executeJob ha hw
  obtain ⟨p, hj⟩ := executeJob_completes (s := s.entered) (j := ⟨ps, rs, v⟩) (sendJobs [] .nothing) he hlim hq hp hb hn
  exact ⟨p, hx.trans hj⟩

/-- Settles O35: the word is the operation's own operand. -/
theorem executeInstructionCompletes : Obligations.ExecuteInstructionCompletes := fun _ _ _ _ hs he =>
  exec_word_executed hs rfl he

/-- Settles O36: the byte has one reading and its effect draws nothing. -/
theorem clearDisplayCompletes : Obligations.ClearDisplayCompletes := by
  intro s i hs hi
  have hw : wordOf i = some (false, clearDisplayByte) := by obtain rfl | rfl := hi <;> rfl
  exact exec_word_completes hs hw rfl (fun _ => rfl) rfl rfl

/-- Settles O47: the stubs only return. -/
theorem stubsComplete : Obligations.StubsComplete := fun _ _ ha =>
  ⟨call_accepts ha fun s => .next (finish .ok s), call_accepts ha fun s => .next (finish (.byte 0) s)⟩

/-! ### The transactions of one instruction, R48 and R121 -/

/-- The events of a busy-wait that saw busy `j` times and then, at draw `n`, not busy; the draws before are from number `m` on. -/
def endedWaitEvents (j m n : Nat) : List Event := busyRounds j m ++ pollEvents (statusByte false n)

/-- The events of one instruction whose busy-wait ended so. -/
def instructionEvents (rs : Bool) (v : Byte) (j m n : Nat) : List Event := writeEvents rs v ++ endedWaitEvents j m n

theorem executed_trace_eq_append (s : State) (rs : Bool) (v : Byte) (j inc : Nat) (c : Ctl) :
    (s.executed rs v j inc c).trace =
      s.trace ++ instructionEvents rs v j (s.draws + 1) (s.draws + 1 + j + inc) := by
  simp [instructionEvents, endedWaitEvents]

/-- What the watcher reads off a busy-wait that ends: status reads, busy but for the last. -/
theorem Watch.endedWait_atRest {w : Watch} {idle : Bool} {data : Option Byte} (j m n : Nat) (h : w.atRest idle data) :
    w.txns (endedWaitEvents j m n) =
        ((List.range' m j).map (statusByte true)).map Txn.rd ++ [.rd (statusByte false n)] ∧
      w.all hazardFree (endedWaitEvents j m n) = true ∧ (w.afterAll (endedWaitEvents j m n)).atRest true data := by
  obtain ⟨read, safe, idle', rest⟩ := Watch.busyRounds_atRest j m h
  obtain ⟨read', safe', rest'⟩ := Watch.pollEvents_atRest (statusByte false n) rest
  rw [busy_statusByte] at rest'
  rw [endedWaitEvents, Watch.txns_append, Watch.all_append, Watch.afterAll_append, read, read', safe, safe', List.map_map]
  exact ⟨rfl, rfl, rest'⟩

/-- What the watcher reads off one instruction: its word, and the busy-wait's status reads. -/
theorem Watch.instruction_atRest {w : Watch} {data : Option Byte} (rs : Bool) (v : Byte) (j m n : Nat)
    (h : w.atRest true data) :
    w.txns (instructionEvents rs v j m n) =
        .wr rs (some v) :: (((List.range' m j).map (statusByte true)).map Txn.rd ++ [.rd (statusByte false n)]) ∧
      w.all hazardFree (instructionEvents rs v j m n) = true ∧
      (w.afterAll (instructionEvents rs v j m n)).atRest true (some v) := by
  obtain ⟨written, safe, rest⟩ := Watch.writeEvents_atRest rs v h
  obtain ⟨read, safe', rest'⟩ := Watch.endedWait_atRest j m n rest
  rw [instructionEvents, Watch.txns_append, Watch.all_append, Watch.afterAll_append, written, read, safe, safe']
  exact ⟨rfl, rfl, rest'⟩

/-- Settles O58: the events are one write sequence and one busy-wait. -/
theorem oneWordOneWrite : Obligations.OneWordOneWrite := by
  intro s i rs v e hs hw he
  obtain ⟨p, hx⟩ := exec_word_executed hs hw he
  obtain ⟨txns, safe, -⟩ := Watch.instruction_atRest rs v p (s.draws + 1) (s.draws + 1 + p + effectDraws rs v)
    (Watch.quiescent_atRest true)
  have sawBusy : ∀ x ∈ (List.range' (s.draws + 1) p).map (statusByte true), busy x = true :=
    List.forall_mem_map.mpr fun n _ => busy_statusByte true n
  have events := executed_trace_eq_append s rs v p (effectDraws rs v) (ctlDone (e (s.draws + 1 + p)))
  exact ⟨_, _, _, _, hx, events, rfl, rfl, rfl, txns, sawBusy, busy_statusByte false _, safe⟩

/-! ### The busy-wait alone, R122 -/

theorem exec_waitNotBusy {s : State} (ha : s.accepts) :
    exec .waitNotBusy s =
      busyWait [] (fun s => .next (finish .nothing s)) (pollFuel s.entered) 0 s.entered :=
  call_accepts ha _

/-- An idle controller answers the first poll of a model step. -/
theorem busyWait_pollFuel_idle {s : State} (stack : List Frame) (k : State → Result) (n : Nat) (hq : s.pins.quiescent)
    (hp : s.ctl.pend = .none) (hb : s.ctl.bf = false) :
    busyWait stack k (pollFuel s) n s = k { s with
      sample := none, draws := s.draws + 1, trace := s.trace ++ pollEvents (statusByte false s.draws) } :=
  busyWait_idle stack k _ n hq hp hb

/-- What is pending completes: the power-on word (R65), or a word whose effect is no fault. -/
theorem completes_pending {cfg : Config} {C : Ctl} (hb : C.bf = true)
    (h : C.pend = .powerOn ∨ ∃ rs v, C.pend = .word rs v ∧ ∀ n, ∃ c, ctlEffect cfg n rs v C = .ok c) :
    ∃ c inc, Completes C cfg c inc := by
  obtain hp | ⟨rs, v, hp, he⟩ := h
  · exact ⟨_, _, completes_powerOn cfg hp hb⟩
  · choose e he using he
    have latched : C.latched rs v = C := by cases C; cases hb; cases hp; rfl
    exact ⟨_, _, latched ▸ completes_word he⟩

/-- Settles O46: an idle controller answers the first poll, and a pending word completes. -/
theorem waitNotBusyCompletes : Obligations.WaitNotBusyCompletes := by
  intro s ha hq hlim h
  obtain ⟨hp, hb⟩ | ⟨hdue, hb, hpend⟩ := h
  · have run := busyWait_pollFuel_idle (s := s.entered) [] (fun s => .next (finish .nothing s)) 0 hq hp hb
    exact ⟨_, 0, s.draws, (exec_waitNotBusy ha).trans run, by simp [busyRounds], hb, hp, rfl, rfl, rfl, rfl,
      rfl, rfl, fun _ => rfl⟩
  · obtain ⟨d, hd⟩ := Option.ne_none_iff_exists'.mp hdue
    obtain ⟨c, inc, hc⟩ := completes_pending hb hpend
    have ⟨pending, _, idle, _⟩ := hc
    have fuel : d < pollFuel s.entered := by simp only [pollFuel, entered_env, hd, Option.getD_some]; omega
    obtain ⟨j, run⟩ := busyWait_completes hc hlim [] (fun s => .next (finish .nothing s)) d _ 0 s.entered fuel hq rfl rfl hd
    obtain ⟨donePend, doneBf⟩ := idle (s.draws + j)
    exact ⟨_, j, s.draws + j + inc, (exec_waitNotBusy ha).trans run, rfl, doneBf, donePend, rfl, rfl, rfl, rfl, rfl, rfl,
      fun hp => absurd hp pending⟩

end Sys2Proof.Machine
end

section
/-! The busy-wait that is not answered (spec/41_instruction_layer.md R122, spec/60_exceptions.md R173, R174): up to the wait each
operation does the same, whatever the wait then comes to, so what comes before it is said once and each end of the wait once. -/

namespace Sys2Proof.Machine

/-! ### A controller that is late -/

theorem lateFor_none (n : Nat) : lateFor n none := nofun

theorem lateFor.mono {n k : Nat} {due : Option Nat} (h : lateFor n due) (hk : k ≤ n) : lateFor k due := fun d hd =>
  hk.trans (h d hd)

/-- Of a controller that is `n + k` gaps late, after `k` of them. -/
theorem lateFor.sub {n k : Nat} {due : Option Nat} (h : lateFor (n + k) due) : lateFor n (due.map (· - k)) := by
  intro d hd
  obtain ⟨d', hd', rfl⟩ := Option.map_eq_some_iff.mp hd
  exact Nat.le_sub_of_add_le (h d' hd')

/-- A gap before the completion only counts. -/
theorem ctlGap_late {s : State} (hp : s.ctl.pend ≠ .none) (hd : lateFor 1 s.env.due) :
    ctlGap s = .next { s with env := { s.env with due := s.env.due.map (· - 1) } } := by
  cases hdue : s.env.due with
  | none => rw [ctlGap_never hdue, Option.map_none, ← hdue]
  | some d =>
    obtain ⟨d, rfl⟩ := Nat.exists_eq_add_of_le' (hd d hdue)
    exact ctlGap_count hp hdue

/-! ### What comes before the wait -/

/-- At X6 with the word still pending: three gaps have passed since the latch. -/
def State.sent (s : State) (j : Job) : State :=
  { s.wroteWord j.rs j.byte with
    ibyte := some j.byte
    env := { s.env with due := s.env.next.map (· - 3), latencies := s.env.latencies.tail } }

theorem sent_quiescent (s : State) (j : Job) : (s.sent j).pins.quiescent := ⟨rfl, rfl, rfl, rfl⟩

theorem sent_pending (s : State) (j : Job) : (s.sent j).ctl.pend ≠ .none := nofun

/-- Steps 1 to 5 of R120 with a controller that does not complete before the wait. -/
theorem writeSequence_late {s : State} {j : Job} (hq : s.pins.quiescent) (hp : s.ctl.pend = .none) (hb : s.ctl.bf = false)
    (hd : lateFor 3 s.env.next) :
    runAll (writeSequence j.rs j.byte) { s with ibyte := some j.byte } = .next (s.sent j) := by
  cases hn : s.env.next with
  | none =>
    rw [writeSequence_hung (s := { s with ibyte := some j.byte }) hq hp hb hn]
    simp [State.sent, State.wroteWord, hn]
  | some d =>
    obtain ⟨d, rfl⟩ := Nat.exists_eq_add_of_le' (hd d hn)
    rw [writeSequence_pending (s := { s with ibyte := some j.byte }) hq hp hb hn]
    simp [State.sent, State.wroteWord, hn]

/-- R120 up to its busy-wait. -/
theorem executeJob_eq_busyWait {s : State} {j : Job} (k : State → Result) (hq : s.pins.quiescent) (hp : s.ctl.pend = .none)
    (hb : s.ctl.bf = false) (hd : lateFor 3 s.env.next) :
    executeJob j k s = busyWait (.executeInstruction j.rs j.byte :: j.parents) (fun s => k { s with ibyte := none })
      (pollFuel (s.sent j)) 0 (s.sent j) := by
  rw [executeJob, writeSequence_late hq hp hb hd, andThen_next]

/-- An accepted text or position is R120 with its first word, and whatever is left. -/
theorem exec_eq_executeJob_of_apiWord {s : State} {i : Instr} {rs : Bool} {v : Byte} (ha : s.accepts)
    (hw : apiWord s.cfg i = some (rs, v)) : ∃ ps k, exec i s = executeJob ⟨ps, rs, v⟩ k s.entered := by
  cases i with
  | printString text =>
    obtain ⟨accepted, hw⟩ := Option.ite_none_right_eq_some.mp hw
    cases text with
    | nil => cases hw
    | cons c cs =>
      cases hw
      rw [exec, execPrintString, call_accepts ha]
      exact ⟨_, _, if_pos accepted⟩
  | setCursorLocation row column =>
    obtain ⟨accepted, ⟨⟩⟩ := Option.ite_none_right_eq_some.mp hw
    rw [exec, execSetCursorLocation, call_accepts ha]
    exact ⟨_, _, if_pos accepted⟩
  | _ => cases hw

theorem exec_eq_executeJob_of_firstWord {s : State} {i : Instr} {rs : Bool} {v : Byte} (ha : s.accepts)
    (hw : firstWord s.cfg i = some (rs, v)) : ∃ ps k, exec i s = executeJob ⟨ps, rs, v⟩ k s.entered := by
  obtain hw | ⟨-, hw⟩ := Option.or_eq_some_iff.mp hw
  · obtain ⟨ps, hx⟩ := exec_eq_executeJob ha hw
    exact ⟨ps, _, hx⟩
  · exact exec_eq_executeJob_of_apiWord ha hw

/-- R150 up to its first busy-wait, where the claim succeeds. -/
theorem exec_initialise_eq_busyWait {s u : State} {n : LineCount} {c b : Bool} (hs : s.seq = .idle)
    (hl : s.life = .unconfigured) (hc : s.env.claimOk = true) (hu : ctlGap s.entered = .next u) :
    exec (.initialise n c b) s = busyWait [.initialise .i2 n c b] (sendJobs (initJobs n c b) .ok)
      (pollFuel (configured u)) 0 (configured u) := by
  have claim : u.env.claimOk = true := by rw [ctlGap_frame hu]; exact hc
  rw [exec, execInitialise, callFirst_accepts hs hl, configureThen, hu, andThen_next, if_pos claim]

/-! ### POLL_LIMIT = some m, R173 -/

/-- The wait polls `max m 1` times, since R122 polls before it tests, and raises. -/
theorem busyWait_raises {s : State} {m : Nat} (stack : List Frame) (k : State → Result) (hlim : s.cfg.pollLimit = some m)
    (hq : s.pins.quiescent) (hp : s.ctl.pend ≠ .none) (hb : s.ctl.bf = true) (hd : lateFor (7 * max m 1 - 1) s.env.due) :
    ∃ v, busyWait stack k (pollFuel s) 0 s = .next (raise .controllerUnresponsive { s with
      draws := s.draws + (max m 1 - 1) + 1, env := v
      trace := s.trace ++ busyRounds (max m 1 - 1) s.draws ++ pollEvents (statusByte true (s.draws + (max m 1 - 1))) }) := by
  have reached : ∀ n, limitReached s.cfg n = decide (m ≤ n) := fun n => by simp [limitReached, hlim]
  have fuel : max m 1 - 1 < pollFuel s := by simp only [pollFuel, hlim, Option.getD_some]; omega
  refine ⟨_, busyWait_gives_up (max m 1 - 1) stack k s _ 0 fuel hq hp hb (hd.mono (by omega)) (fun i hi => ?_) ?_⟩
  · rw [reached, decide_eq_false_iff_not]; omega
  · rw [reached, decide_eq_true_eq]; omega

/-- R120 with a controller that is late for all the polls of its busy-wait. -/
theorem executeJob_raises {s : State} {m : Nat} (j : Job) (k : State → Result) (hlim : s.cfg.pollLimit = some m)
    (hq : s.pins.quiescent) (hp : s.ctl.pend = .none) (hb : s.ctl.bf = false) (hd : lateFor (7 * max m 1 + 2) s.env.next) :
    ∃ v, executeJob j k s = .next (raise .controllerUnresponsive { s.sent j with
      draws := s.draws + 1 + (max m 1 - 1) + 1, env := v
      trace := s.trace ++ writeEvents j.rs j.byte ++ busyRounds (max m 1 - 1) (s.draws + 1) ++
        pollEvents (statusByte true (s.draws + 1 + (max m 1 - 1))) }) := by
  have late : lateFor (7 * max m 1 - 1) (s.sent j).env.due := (hd.mono (by omega)).sub
  rw [executeJob_eq_busyWait k hq hp hb (hd.mono (by omega))]
  exact busyWait_raises (s := s.sent j) _ _ hlim (sent_quiescent s j) (sent_pending s j) rfl late

/-- Settles O54: each operation comes to its busy-wait with the controller late enough for all its polls. -/
theorem boundedWaitRaises : Obligations.BoundedWaitRaises := by
  intro s m hlim
  have draws : s.draws + 1 + (max m 1 - 1) = s.draws + max m 1 := by omega
  refine ⟨fun i rs v hs hw hd => ?_, fun ha hq hb hp hd => ?_, fun n c b hi hl hc hb hp hd => ?_⟩
  · obtain ⟨ha, hq, hb, hp⟩ := hs
    obtain ⟨ps, k, hx⟩ := exec_eq_executeJob_of_firstWord ha hw
    obtain ⟨x, raised⟩ := executeJob_raises (s := s.entered) ⟨ps, rs, v⟩ k hlim hq hp hb hd
    rw [hx, ← draws]
    exact ⟨_, raised, rfl, ⟨ha.1, rfl⟩, sent_quiescent s ⟨ps, rs, v⟩, rfl, rfl, rfl, rfl⟩
  · obtain ⟨x, raised⟩ := busyWait_raises (s := s.entered) [] (fun s => .next (finish .nothing s)) hlim hq hp hb hd
    exact ⟨_, (exec_waitNotBusy ha).trans raised, rfl, ⟨ha.1, rfl⟩, rfl, rfl, rfl, rfl, rfl⟩
  · have gap := ctlGap_late (s := s.entered) hp (hd.mono (by omega))
    have late : lateFor (7 * max m 1 - 1) (s.env.due.map (· - 1)) := (hd.mono (by omega)).sub
    obtain ⟨x, raised⟩ := busyWait_raises
      (s := configured { s.entered with env := { s.env with due := s.env.due.map (· - 1) } })
      [.initialise .i2 n c b] (sendJobs (initJobs n c b) .ok) hlim (configured_quiescent _) hp hb late
    rw [exec_initialise_eq_busyWait hi hl hc gap, ← draws]
    exact ⟨_, raised, rfl, ⟨rfl, rfl⟩, configured_quiescent _, rfl, rfl, rfl, rfl⟩

/-! ### POLL_LIMIT = none, R174 -/

/-- With a controller that never completes, a model step makes one round of the wait (log 12). -/
theorem busyWait_rests {s : State} (stack : List Frame) (k : State → Result) (n : Nat) (hlim : s.cfg.pollLimit = none)
    (hq : s.pins.quiescent) (hb : s.ctl.bf = true) (hd : s.env.due = none) :
    busyWait stack k (pollFuel s) n s = .next { s with
      seq := .waiting (n + 1) stack, sample := none, draws := s.draws + 1, trace := s.trace ++ busyRounds 1 s.draws } := by
  have fuel : pollFuel s = 0 + 1 := by simp [pollFuel, hd, hlim]
  rw [fuel, busyWait_never stack k 0 n hq hd hb, if_neg (by simp [limitReached, hlim])]
  simp [busyWait, busyRounds]

/-- R120 with a controller that never completes the word. -/
theorem executeJob_rests {s : State} (j : Job) (k : State → Result) (hlim : s.cfg.pollLimit = none) (hq : s.pins.quiescent)
    (hp : s.ctl.pend = .none) (hb : s.ctl.bf = false) (hn : s.env.next = none) :
    executeJob j k s = .next { s.sent j with
      seq := .waiting 1 (.executeInstruction j.rs j.byte :: j.parents), sample := none, draws := s.draws + 1 + 1
      trace := s.trace ++ writeEvents j.rs j.byte ++ busyRounds 1 (s.draws + 1) } := by
  have never : (s.sent j).env.due = none := Option.map_eq_none_iff.mpr hn
  rw [executeJob_eq_busyWait k hq hp hb (hn ▸ lateFor_none 3),
    busyWait_rests (s := s.sent j) _ _ 0 hlim (sent_quiescent s j) rfl never]
  rfl

/-- Settles O55: each operation comes to its busy-wait and stands there. -/
theorem unansweredOperationWaits : Obligations.UnansweredOperationWaits := by
  intro s hlim
  refine ⟨fun i rs v hs hn hw => ?_, fun ha hq hb hd => ?_, fun n c b hi hl hc => ⟨fun hb hd => ?_, fun hb hp hn => ?_⟩⟩
  · obtain ⟨ha, hq, hb, hp⟩ := hs
    obtain ⟨ps, k, hx⟩ := exec_eq_executeJob_of_firstWord ha hw
    have rests := executeJob_rests (s := s.entered) ⟨ps, rs, v⟩ k hlim hq hp hb hn
    exact ⟨_, _, hx.trans rests, rfl, rfl, sent_quiescent _ _, rfl, Option.map_eq_none_iff.mpr hn, rfl⟩
  · have rests := busyWait_rests (s := s.entered) [] (fun s => .next (finish .nothing s)) 0 hlim hq hb hd
    exact ⟨_, (exec_waitNotBusy ha).trans rests, rfl, rfl, rfl, rfl, hd, rfl⟩
  · have rests := busyWait_rests (s := configured s.entered) [.initialise .i2 n c b] (sendJobs (initJobs n c b) .ok) 0 hlim
      (configured_quiescent _) hb hd
    exact ⟨_, (exec_initialise_eq_busyWait hi hl hc (ctlGap_never hd)).trans rests, rfl, rfl, rfl, configured_quiescent _,
      rfl, hd, rfl⟩
  · have polled := busyWait_pollFuel_idle (s := configured s.entered) [.initialise .i2 n c b] (sendJobs (initJobs n c b) .ok) 0
      (configured_quiescent _) hp hb
    have rests := polled.trans (executeJob_rests _ _ hlim (configured_quiescent _) hp hb hn)
    exact ⟨_, _, (exec_initialise_eq_busyWait hi hl hc (ctlGap_idle hp)).trans rests, rfl, rfl, rfl,
      sent_quiescent _ _, rfl, Option.map_eq_none_iff.mpr hn, rfl⟩

end Sys2Proof.Machine
end

section
/-! The API (spec/42_driver_api.md R150 to R152): a rejected or failed call stops before any instruction, and any other is a sequence of
instructions, each of which leads from a settled state to a settled state with its word written (R48, R66) and its effect done. -/

namespace Sys2Proof.Machine

/-! ### Calls that end before any instruction -/

/-- R101, R150: a failed claim ends `configure` and `initialize` alike, after the gap before it. -/
theorem callFirst_configureThen_fails {s u : State} (k : State → Result) (hs : s.seq = .idle) (hl : s.life = .unconfigured)
    (hc : s.env.claimOk = false) (hu : ctlGap s.entered = .next u) :
    callFirst (configureThen k) s = .next (raise .pinClaimFailure (claimFailed u)) := by
  have claim : ¬ u.env.claimOk = true := by rw [ctlGap_frame hu]; simp [hc]
  rw [callFirst_accepts hs hl, configureThen, hu, andThen_next, if_neg claim]

/-- Settles O49: the claim is the last thing that happens. -/
theorem initialiseReportsFailedClaim : Obligations.InitialiseReportsFailedClaim := by
  intro s u n c b hs hl hc hu
  have trace : u.trace = s.trace := by rw [ctlGap_frame hu]; rfl
  exact ⟨_, callFirst_configureThen_fails _ hs hl hc hu, rfl, by simp [trace], rfl, rfl, rfl⟩

theorem textAccepted_iff (cfg : Config) (text : List Byte) :
    textAccepted cfg text = true ↔ text.length ≠ 0 ∧ text.length ≤ cfg.lineCap := by
  simp [textAccepted]

theorem cursorAccepted_iff (cfg : Config) (row column : Int) :
    cursorAccepted cfg row column = true ↔ (row = 0 ∨ row = 1) ∧ 0 ≤ column ∧ column ≤ (cfg.cols.width : Int) - 1 := by
  simp [cursorAccepted, and_assoc]

/-- Settles O51: the check comes before the first instruction. -/
theorem printStringRejects : Obligations.PrintStringRejects := by
  intro s text ha h
  have rejected : ¬ textAccepted s.cfg text = true := by rw [textAccepted_iff]; omega
  rw [exec, execPrintString, call_accepts ha]
  exact if_neg rejected

/-- Settles O53: the check comes before the first instruction. -/
theorem setCursorLocationRejects : Obligations.SetCursorLocationRejects := by
  intro s row column ha h
  have rejected : ¬ cursorAccepted s.cfg row column = true := by rw [cursorAccepted_iff]; omega
  rw [exec, execSetCursorLocation, call_accepts ha]
  exact if_neg rejected

/-! ### One instruction of a sequence -/

/-- An effect leaves BF and PEND as they were. -/
theorem ctlEffect_keeps_flags {cfg : Config} {n : Nat} {rs : Bool} {v : Byte} {C c : Ctl}
    (h : ctlEffect cfg n rs v C = .ok c) : c.bf = C.bf ∧ c.pend = C.pend := by
  rw [ctlEffect] at h
  cases hw : latchedCommand rs v <;> rw [hw] at h
  case noCommand => cases h
  case functionSet dl n f => cases dl <;> cases h; exact ⟨rfl, rfl⟩
  case shift sc rl => cases h; cases sc <;> exact ⟨rfl, rfl⟩
  all_goals cases h; exact ⟨rfl, rfl⟩

/-- The effect of a word that draws nothing does not depend on the number of the draw. -/
theorem ctlEffect_of_no_draw {rs : Bool} {v : Byte} (h : effectDraws rs v = 0) (cfg : Config) (n m : Nat) (C : Ctl) :
    ctlEffect cfg n rs v C = ctlEffect cfg m rs v C := by
  unfold ctlEffect
  cases hw : latchedCommand rs v with
  | unspecified => simp [effectDraws, hw] at h
  | _ => rfl

/-- The first instruction of a sequence, for a word that draws nothing and whose effect is no fault. -/
theorem sendJobs_cons {s : State} {ps : List Frame} {rs : Bool} {v : Byte} {c : Ctl} (js : List Job) (r : Ret)
    (hs : s.runnable) (hd : effectDraws rs v = 0) (he : ctlEffect s.cfg 0 rs v s.ctl = .ok c) :
    ∃ p, sendJobs (⟨ps, rs, v⟩ :: js) r s = sendJobs js r (s.executed rs v p 0 c) := by
  obtain ⟨d, hn⟩ := hs.next
  obtain ⟨⟨-, hq, hb, hp⟩, hlim, -⟩ := hs
  obtain ⟨p, run⟩ := executeJob_completes (j := ⟨ps, rs, v⟩) (sendJobs js r)
    (fun n => (ctlEffect_of_no_draw hd s.cfg n 0 s.ctl).trans he) hlim hq hp hb hn
  have ⟨keepsBf, keepsPend⟩ := ctlEffect_keeps_flags he
  rw [hd, ctlDone_of_idle (keepsBf.trans hb) (keepsPend.trans hp)] at run
  exact ⟨p, run⟩

/-! ### `set_cursor_location`, R152 -/

theorem Cols.width_le (c : Cols) : c.width ≤ 20 := by cases c <;> decide

/-- R42, R152: where the display position stands in the display RAM. -/
def cellOf (row : Bool) (column : Nat) : Nat := (if row then 0x40 else 0) + column

theorem cursorAddress_eq_cellOf (row : Bool) (column : Nat) :
    cursorAddress (if row then 1 else 0) column = BitVec.ofNat 8 (cellOf row column) := by
  cases row with
  | false => simp [cursorAddress, cellOf]
  | true => simpa [cursorAddress, cellOf] using BitVec.ofInt_natCast 8 (64 + column)

theorem validCell_cellOf {row : Bool} {column : Nat} (h : column < 20) : validCell (cellOf row column) = true := by
  cases row <;> simp [validCell, cellOf] <;> omega

/-- R78: an address of seven bits is sent as it is. -/
theorem ddramAddressByte_of_lt {a : Nat} (h : a < 128) :
    ddramAddressByte (BitVec.ofNat 8 a) = 0x80 ||| BitVec.ofNat 8 a := by
  have low : BitVec.ofNat 8 a &&& 0x7F = BitVec.ofNat 8 a := by
    apply BitVec.eq_of_toNat_eq
    have mask : a % 256 &&& 127 = a % 256 % 128 := Nat.and_two_pow_sub_one_eq_mod _ 7
    simp only [BitVec.toNat_and, BitVec.toNat_ofNat, Nat.reducePow, BitVec.reduceToNat]
    omega
  rw [ddramAddressByte, low]

theorem acSet_of_valid {a : Nat} (hv : validCell a = true) (h : a < 128) :
    acSet ((BitVec.ofNat 8 a).setWidth 7) = BitVec.ofNat 7 a := by
  have same : (BitVec.ofNat 8 a).setWidth 7 = BitVec.ofNat 7 a := by
    apply BitVec.eq_of_toNat_eq
    simp only [BitVec.toNat_setWidth, BitVec.toNat_ofNat]
    omega
  have cell : (BitVec.ofNat 7 a).toNat = a := by rw [BitVec.toNat_ofNat]; omega
  rw [same, acSet, if_pos (cell.symm ▸ hv)]

theorem exec_setCursorLocation_accepted {s : State} {row column : Int} (ha : s.accepts)
    (h : cursorAccepted s.cfg row column = true) :
    exec (.setCursorLocation row column) s = sendJobs [cursorJob row column] .ok s.entered := by
  rw [exec, execSetCursorLocation, call_accepts ha]
  exact if_pos h

/-- Settles O52: the one instruction is the address-set of the position's cell. -/
theorem setCursorLocationCompletes : Obligations.SetCursorLocationCompletes := by
  intro s row column hs hcol
  have narrow : column < 20 := hcol.trans_le (Cols.width_le _)
  have small : cellOf row column < 128 := by unfold cellOf; split <;> omega
  have accepted : cursorAccepted s.cfg (if row then 1 else 0) column = true := by
    rw [cursorAccepted_iff]; cases row <;> simp <;> omega
  have draws : effectDraws false (ddramAddressByte (BitVec.ofNat 8 (cellOf row column))) = 0 := by
    rw [effectDraws, latchedCommand_ddramAddressByte]
  have effect : ctlEffect s.cfg 0 false (ddramAddressByte (BitVec.ofNat 8 (cellOf row column))) s.ctl =
      .ok (ctlSetDdramAddress ((BitVec.ofNat 8 (cellOf row column)).setWidth 7) s.ctl) := by
    rw [ctlEffect, latchedCommand_ddramAddressByte]
  rw [ctlSetDdramAddress, acSet_of_valid (validCell_cellOf narrow) small] at effect
  rw [exec_setCursorLocation_accepted hs.1.1 accepted, cursorJob, cursorAddress_eq_cellOf]
  rw [ddramAddressByte_of_lt small] at draws effect ⊢
  exact sendJobs_cons (s := s.entered) [] .ok hs draws effect

/-! ### A sequence of instructions -/

/-- The wire word an instruction sends: RS and the byte. -/
def Job.word (j : Job) : Bool × Byte := (j.rs, j.byte)

/-- What a sequence of words that draw nothing does to the controller, or its first fault. -/
def ctlEffects (cfg : Config) (ws : List (Bool × Byte)) (C : Ctl) : Except Fault Ctl :=
  ws.foldlM (fun c w => ctlEffect cfg 0 w.1 w.2 c) C

theorem ctlEffects_cons_of_ok {cfg : Config} {rs : Bool} {v : Byte} {C c : Ctl} (h : ctlEffect cfg 0 rs v C = .ok c)
    (ws : List (Bool × Byte)) : ctlEffects cfg ((rs, v) :: ws) C = ctlEffects cfg ws c := by
  rw [ctlEffects, List.foldlM_cons, h]; rfl

theorem ctlEffects_cons_eq_ok {cfg : Config} {rs : Bool} {v : Byte} {ws : List (Bool × Byte)} {C D : Ctl}
    (h : ctlEffects cfg ((rs, v) :: ws) C = .ok D) :
    ∃ c, ctlEffect cfg 0 rs v C = .ok c ∧ ctlEffects cfg ws c = .ok D := by
  cases hc : ctlEffect cfg 0 rs v C with
  | error f => rw [ctlEffects, List.foldlM_cons, hc] at h; cases h
  | ok c => exact ⟨c, rfl, (ctlEffects_cons_of_ok hc ws).symm.trans h⟩

/-- The transaction is a write (R46). -/
def Txn.isWrite : Txn → Bool
  | .wr _ _ => true
  | .rd _ => false

theorem filter_isWrite_reads (l : List Byte) : (l.map Txn.rd).filter Txn.isWrite = [] := by
  simp [Txn.isWrite]

/-- A watcher that has seen the controller idle reads the words off the events as their write transactions, and no hazard. -/
def Writes (evs : List Event) (ws : List (Bool × Byte)) : Prop :=
  ∀ (w : Watch) (data : Option Byte), w.atRest true data →
    (w.txns evs).filter Txn.isWrite = ws.map (fun x => .wr x.1 (some x.2)) ∧ w.all hazardFree evs = true

theorem writes_nil : Writes [] [] := fun _ _ _ => ⟨rfl, rfl⟩

/-- A busy-wait before the events adds status reads alone, and leaves the controller seen idle. -/
theorem Writes.afterWait {evs : List Event} {ws : List (Bool × Byte)} (h : Writes evs ws) {w : Watch} {idle : Bool}
    {data : Option Byte} (hw : w.atRest idle data) (j m n : Nat) :
    (w.txns (endedWaitEvents j m n ++ evs)).filter Txn.isWrite = ws.map (fun x => .wr x.1 (some x.2)) ∧
      w.all hazardFree (endedWaitEvents j m n ++ evs) = true := by
  obtain ⟨read, safe, rest⟩ := Watch.endedWait_atRest j m n hw
  obtain ⟨written, safe'⟩ := h _ _ rest
  rw [Watch.txns_append, Watch.all_append, read, safe, safe', List.filter_append, List.filter_append, filter_isWrite_reads,
    written]
  exact ⟨rfl, rfl⟩

theorem Writes.cons {evs : List Event} {ws : List (Bool × Byte)} (h : Writes evs ws) (rs : Bool) (v : Byte) (p m n : Nat) :
    Writes (instructionEvents rs v p m n ++ evs) ((rs, v) :: ws) := by
  intro w data hw
  obtain ⟨first, safe, rest⟩ := Watch.writeEvents_atRest rs v hw
  obtain ⟨written, safe'⟩ := h.afterWait rest p m n
  rw [instructionEvents, List.append_assoc, Watch.txns_append, Watch.all_append, first, safe, safe', List.filter_append,
    written]
  exact ⟨rfl, rfl⟩

/-- `t` is what instructions with the words `ws` leave of `s`, returning `r`. -/
structure State.Sent (s : State) (ws : List (Bool × Byte)) (r : Ret) (t : State) : Prop where
  cfg : t.cfg = s.cfg
  calls : t.calls = s.calls
  ctrlDir : t.pins.ctrlDir = s.pins.ctrlDir
  ret : t.ret = some r
  effect : ctlEffects s.cfg ws s.ctl = .ok t.ctl
  trace : ∃ evs, t.trace = s.trace ++ evs ∧ Writes evs ws

theorem State.Sent.nil (s : State) (r : Ret) : s.Sent [] r (finish r s) :=
  ⟨rfl, rfl, rfl, rfl, rfl, [], by simp, writes_nil⟩

theorem State.Sent.cons {s t : State} {rs : Bool} {v : Byte} {ws : List (Bool × Byte)} {r : Ret} {p : Nat} {c : Ctl}
    (he : ctlEffect s.cfg 0 rs v s.ctl = .ok c) (h : (s.executed rs v p 0 c).Sent ws r t) :
    s.Sent ((rs, v) :: ws) r t := by
  obtain ⟨cfg, calls, ctrlDir, ret, effect, evs, trace, writes⟩ := h
  refine ⟨cfg, calls, ctrlDir, ret, (ctlEffects_cons_of_ok he ws).trans effect, _, ?_,
    writes.cons rs v p (s.draws + 1) (s.draws + 1 + p + 0)⟩
  rw [trace, executed_trace_eq_append, List.append_assoc]

/-- A sequence of instructions from a settled state, with a responsive controller in the reference design. -/
theorem sendJobs_completes {js : List Job} {s : State} {C : Ctl} (r : Ret) (hs : s.settled) (hlim : s.cfg.pollLimit = none)
    (hr : s.responsive) (hd : ∀ j ∈ js, effectDraws j.rs j.byte = 0)
    (he : ctlEffects s.cfg (js.map Job.word) s.ctl = .ok C) :
    ∃ t, sendJobs js r s = .next t ∧ t.settled ∧ t.ctl = C ∧ s.Sent (js.map Job.word) r t := by
  suffices run : ∃ t, sendJobs js r s = .next t ∧ s.Sent (js.map Job.word) r t by
    obtain ⟨t, ht, sent⟩ := run
    exact ⟨t, ht, sendJobs_settled hs hlim hr ht, Except.ok.inj (sent.effect.symm.trans he), sent⟩
  induction js generalizing s with
  | nil => exact ⟨_, rfl, .nil s r⟩
  | cons j js ih =>
    obtain ⟨hj, hjs⟩ := List.forall_mem_cons.mp hd
    obtain ⟨c, hc, hrest⟩ := ctlEffects_cons_eq_ok he
    obtain ⟨p, run⟩ := sendJobs_cons (ps := j.parents) js r (hs.runnable hlim hr) hj hc
    have ⟨_, _, hb, hp⟩ := hs
    have ⟨keepsBf, keepsPend⟩ := ctlEffect_keeps_flags hc
    obtain ⟨t, ht, sent⟩ := ih (s := s.executed j.rs j.byte p 0 c)
      (hs.executed _ _ _ _ (keepsBf.trans hb) (keepsPend.trans hp)) hlim (hr.executed _ _ _ _ (keepsPend.trans hp)) hjs hrest
    exact ⟨t, run.trans ht, .cons hc sent⟩

/-! ### `print_string`, R151 -/

theorem printJobs_words (text : List Byte) : (printJobs text).map Job.word = text.map (true, ·) := by
  rw [printJobs, List.map_map, ← List.zipIdx_map_fst 0 text, List.map_map, List.zipIdx_map_fst]
  rfl

theorem effectDraws_printJobs {text : List Byte} : ∀ j ∈ printJobs text, effectDraws j.rs j.byte = 0 :=
  List.forall_mem_map.mpr fun _ _ => rfl

theorem ctlEffects_characters (cfg : Config) (text : List Byte) (C : Ctl) :
    ctlEffects cfg (text.map (true, ·)) C = .ok (text.foldl (fun c k => ctlCharacter cfg k c) C) := by
  induction text generalizing C with
  | nil => rfl
  | cons k text ih => exact ih (ctlCharacter cfg k C)

/-- Settles O50: the instructions are one character write for each code. -/
theorem printStringCompletes : Obligations.PrintStringCompletes := by
  intro s text hs hlim hr h0 hcap
  have accepted : textAccepted s.cfg text = true := (textAccepted_iff _ _).mpr ⟨h0.ne', hcap⟩
  have effects := ctlEffects_characters s.cfg text s.ctl
  rw [← printJobs_words] at effects
  obtain ⟨t, ht, settled, ctl, ⟨cfg, calls, -, ret, -, evs, trace, writes⟩⟩ :=
    sendJobs_completes (s := s.entered) .ok hs hlim hr effectDraws_printJobs effects
  obtain ⟨txns, -⟩ := writes _ _ (Watch.quiescent_atRest true)
  rw [printJobs_words, List.map_map] at txns
  refine ⟨t, evs, ?_, settled, ret, cfg, calls, ctl, trace, txns⟩
  rw [exec, execPrintString, call_accepts hs.1]
  exact (if_pos accepted).trans ht

/-! ### `initialize`, R150 -/

/-- The busy-wait of a model step, on a controller that is idle or completes what is pending. -/
theorem busyWait_pollFuel_ends {s : State} (stack : List Frame) (k : State → Result) (n : Nat) (hq : s.pins.quiescent)
    (hlim : s.cfg.pollLimit = none) (hr : s.responsive)
    (h : (s.ctl.pend = .none ∧ s.ctl.bf = false) ∨ ∃ c inc, Completes s.ctl s.cfg c inc) :
    ∃ j m C due draws, busyWait stack k (pollFuel s) n s = k { s with
        sample := none, ctl := C, env := { s.env with due := due }, draws := draws
        trace := s.trace ++ endedWaitEvents j s.draws m } ∧ C.bf = false ∧ C.pend = .none := by
  obtain ⟨hp, hb⟩ | ⟨c, inc, hc⟩ := h
  · exact ⟨0, s.draws, s.ctl, s.env.due, s.draws + 1, busyWait_pollFuel_idle stack k n hq hp hb, hb, hp⟩
  · have ⟨pending, _, idle, _⟩ := hc
    obtain ⟨d, hd⟩ := Option.ne_none_iff_exists'.mp (hr.1 pending)
    have fuel : d < pollFuel s := by simp only [pollFuel, hd, Option.getD_some]; omega
    obtain ⟨j, run⟩ := busyWait_completes hc hlim stack k d _ n s fuel hq rfl rfl hd
    obtain ⟨donePend, doneBf⟩ := idle (s.draws + j)
    have trace := waited_trace s j inc (c (s.draws + j))
    rw [List.append_assoc] at trace
    refine ⟨j, s.draws + j + inc, _, none, s.draws + j + inc + 1, run.trans ?_, doneBf, donePend⟩
    rw [endedWaitEvents, ← trace]
    rfl

/-- Power-on is still pending, or nothing is: what the controller can be when `initialize` is called. -/
def Ctl.startable (c : Ctl) : Prop := (c.pend = .powerOn ∧ c.bf = true) ∨ (c.pend = .none ∧ c.bf = false)

theorem ctlGap_startable {s : State} (h : s.ctl.startable) (hr : s.responsive) :
    ∃ u, ctlGap s = .next u ∧ u.ctl.startable ∧ u.responsive := by
  obtain ⟨hdue, hlat, hafter⟩ := hr
  obtain ⟨hp, hb⟩ | idle := h
  · have pending : s.ctl.pend ≠ .none := by simp [hp]
    obtain ⟨d, hd⟩ := Option.ne_none_iff_exists'.mp (hdue pending)
    cases d with
    | zero =>
      rw [ctlGap_now pending hd, ctlComplete, hp]
      exact ⟨_, rfl, .inr ⟨rfl, rfl⟩, fun h => absurd rfl h, hlat, hafter⟩
    | succ d =>
      exact ⟨_, ctlGap_count pending hd, .inl ⟨hp, hb⟩, fun _ => Option.some_ne_none d, hlat, hafter⟩
  · exact ⟨s, ctlGap_idle idle.1, .inr idle, hdue, hlat, hafter⟩

theorem Ctl.startable.ends {c : Ctl} (h : c.startable) (cfg : Config) :
    (c.pend = .none ∧ c.bf = false) ∨ ∃ e inc, Completes c cfg e inc :=
  h.symm.imp_right fun ⟨hp, hb⟩ => ⟨_, _, completes_powerOn cfg hp hb⟩

/-- R202: the registers `initialize` leaves. -/
def initRegs (n : LineCount) (c b : Bool) : CtlRegs :=
  { ac := 0, id := true, sh := false, d := true, c := c, b := b, dl := true, n := twoLines n, f := false, ofs := 0 }

/-- R150: the words of I3 to I6. -/
def initWords (n : LineCount) (c b : Bool) : List (Bool × Byte) := (initJobs n c b).map Job.word

/-- R55, R57, R58, R60: the four commands leave nothing of what the controller was. -/
theorem ctlEffects_initWords {cfg : Config} (h : cfg.standardPart = true) (n : LineCount) (c b : Bool) (C : Ctl) :
    ctlEffects cfg (initWords n c b) C = .ok { C with regs := initRegs n c b, ddram := Memory.fill 0x20 } := by
  simp only [Config.standardPart, Bool.and_eq_true, beq_iff_eq] at h
  obtain ⟨⟨⟨⟨fill, unshifts⟩, -⟩, -⟩, -⟩ := h
  simp [ctlEffects, initWords, initJobs, Job.word, ctlEffect, ctlClearDisplay, ctlFunctionSet, ctlDisplayControl,
    ctlEntryModeSet, initRegs, fill, unshifts, bind, Except.bind, pure, Except.pure]

theorem effectDraws_initJobs (n : LineCount) (c b : Bool) : ∀ j ∈ initJobs n c b, effectDraws j.rs j.byte = 0 := by
  simp [initJobs, effectDraws]

/-- The four commands as R150 writes them. -/
theorem initWords_eq (n : LineCount) (c b : Bool) :
    initWords n c b = [(false, 0x01), (false, if n = .two then 0x38 else 0x30),
      (false, 0x0C ||| (if c then 2 else 0) ||| (if b then 1 else 0)), (false, 0x06)] := by
  cases n <;> cases c <;> cases b <;> decide

theorem twoLines_eq (n : LineCount) : twoLines n = decide (n = .two) := by cases n <;> rfl

/-- R150 where the claim succeeds: I2's busy-wait ends, and the four commands are sent from the settled state it leaves. -/
theorem exec_initialise_eq_sendJobs {s : State} (n : LineCount) (c b : Bool) (hs : s.seq = .idle)
    (hl : s.life = .unconfigured) (hc : s.env.claimOk = true) (hlim : s.cfg.pollLimit = none) (hr : s.responsive)
    (hctl : s.ctl.startable) :
    ∃ u j m k, exec (.initialise n c b) s = sendJobs (initJobs n c b) .ok u ∧ u.settled ∧ u.responsive ∧ u.cfg = s.cfg ∧
      u.calls = s.calls ∧ u.pins.ctrlDir = ⟨.output, .output, .output, .output⟩ ∧
      u.trace = s.trace ++ [.claim true, .ctlOut, .dir .input, .rs false, .rw true, .e false] ++ endedWaitEvents j m k := by
  obtain ⟨g, hg, startable, responsive⟩ := ctlGap_startable (s := s.entered) hctl hr
  obtain ⟨C, due, d, rfl⟩ : ∃ C due d, g = { s.entered with ctl := C, env := { s.env with due := due }, draws := d } :=
    ⟨_, _, _, ctlGap_frame hg⟩
  obtain ⟨j, m, D, due', d', run, hb, hp⟩ := busyWait_pollFuel_ends
    (s := configured { s.entered with ctl := C, env := { s.env with due := due }, draws := d })
    [.initialise .i2 n c b] (sendJobs (initJobs n c b) .ok) 0 (configured_quiescent _) hlim responsive (startable.ends _)
  obtain ⟨-, hlat, hafter⟩ := hr
  exact ⟨_, j, _, m, (exec_initialise_eq_busyWait hs hl hc hg).trans run,
    ⟨⟨rfl, hs⟩, configured_quiescent _, hb, hp⟩, ⟨fun h => absurd hp h, hlat, hafter⟩, rfl, rfl, rfl, rfl⟩

/-- Settles O48: the busy-wait of I2 ends with the controller seen idle, and the four commands fix every register and cell. -/
theorem initialiseCompletes : Obligations.InitialiseCompletes := by
  intro s n c b hs hl hc hlim hpart hr hctl
  obtain ⟨u, j, m, k, hx, settled, responsive, hcfg, hcalls, hdirs, htrace⟩ :=
    exec_initialise_eq_sendJobs n c b hs hl hc hlim hr hctl
  obtain ⟨t, ht, settled', ctl, ⟨cfg, calls, ctrlDir, ret, -, evs, trace, writes⟩⟩ :=
    sendJobs_completes .ok settled (hcfg ▸ hlim) responsive (effectDraws_initJobs n c b)
      (ctlEffects_initWords (hcfg ▸ hpart) n c b u.ctl)
  obtain ⟨written, safe⟩ := writes.afterWait (Watch.quiescent_atRest false) j m k
  have words := congrArg (List.map fun x => Txn.wr x.1 (some x.2)) (initWords_eq n c b)
  refine ⟨t, endedWaitEvents j m k ++ evs, hx.trans ht, settled', ret, cfg.trans hcfg, calls.trans hcalls,
    ctrlDir.trans hdirs, ?_, by rw [ctl], ?_, written.trans words, safe⟩
  · rw [ctl, ← twoLines_eq]; rfl
  · rw [trace, htrace, List.append_assoc]

end Sys2Proof.Machine
end

section
/-! An operation in progress (spec/60_exceptions.md R174, R185, R193): HOST's calls are refused, and DRV's turn is the busy-wait going
on, which a controller that never completes keeps going for ever. -/

namespace Sys2Proof.Machine

/-! ### A call while an operation is in progress, R185 -/

theorem call_reentered {s : State} (hs : s.seq ≠ .idle) (k : State → Result) : call k s = .refused .reentered :=
  if_pos hs

theorem callFirst_reentered {s : State} (hs : s.seq ≠ .idle) (k : State → Result) :
    callFirst k s = .refused .reentered :=
  if_pos hs

/-- Settles O18: `call` and `callFirst` both test SEQ before anything else. -/
theorem reenteredRefused : Obligations.ReenteredRefused := by
  intro s i hs
  obtain rfl | hc := eq_or_ne i .configure
  · exact callFirst_reentered hs _
  by_cases hi : ∃ n c b, i = .initialise n c b
  · obtain ⟨n, c, b, rfl⟩ := hi
    exact callFirst_reentered hs _
  obtain ⟨k, hk⟩ := exec_eq_call hc fun n c b h => hi ⟨n, c, b, h⟩
  rw [hk, call_reentered hs]

/-! ### The busy-wait that goes on, R122, R174 -/

theorem step_waiting {s : State} {n : Nat} {stack : List Frame} (h : s.seq = .waiting n stack) :
    step s = resume n stack s := by
  rw [step, h]

/-- Settles O56: DRV's turn is one busy-wait of a model step, and that is one round. -/
theorem hangGoesOnForEver : Obligations.HangGoesOnForEver := by
  intro s n stack hs hq hlim hd hb
  calc step s = resume n stack s := step_waiting hs
    _ = _ := busyWait_rests stack (afterWait stack) n hlim hq hb hd

end Sys2Proof.Machine
end

section
/-! A block at rest, and the way out of reset (spec/70_reset_and_hazards.md R200, R201): with no call only the controller can move, and a
successful `configure` leaves the reset table. -/

namespace Sys2Proof.Machine

/-! ### No call, R200 -/

theorem step_no_call {s : State} (hs : s.seq = .idle) (hc : s.calls = []) : step s = ctlGap s := by
  rw [step, hs, hc]

/-- Settles O9: the step is the controller's gap, which does nothing where nothing is pending. -/
theorem nothingHappensWithoutCall : Obligations.NothingHappensWithoutCall := by
  intro s hs hc hp
  rw [step_no_call hs hc, ctlGap_idle hp]

/-! ### A successful claim, R101, R201 -/

/-- R101: after the gap before the claim, what follows runs from the reset table. -/
theorem callFirst_configureThen_claims {s u : State} (k : State → Result) (hs : s.seq = .idle)
    (hl : s.life = .unconfigured) (hc : s.env.claimOk = true) (hu : ctlGap s.entered = .next u) :
    callFirst (configureThen k) s = k (configured u) := by
  have claim : u.env.claimOk = true := by rw [ctlGap_frame hu]; exact hc
  rw [callFirst_accepts hs hl, configureThen, hu, andThen_next, if_pos claim]

/-- Settles O19: the claim leaves the reset table with LIFE READY, so a second `configure` meets the check of R101. -/
theorem configureLeavesQuiescentBus : Obligations.ConfigureLeavesQuiescentBus := by
  intro s u hs hl hc hu
  have run : exec .configure s = .next (finish .nothing (configured u)) :=
    callFirst_configureThen_claims _ hs hl hc hu
  have trace : u.trace = s.trace := by rw [ctlGap_frame hu]; rfl
  have cfg : u.cfg = s.cfg := by rw [ctlGap_frame hu]; rfl
  have calls : u.calls = s.calls := by rw [ctlGap_frame hu]; rfl
  have twice : exec .configure (finish .nothing (configured u)) = .refused .configureTwice :=
    (secondConfigureRefused (finish .nothing (configured u)) .two false false rfl (by simp)).1
  exact ⟨_, run, rfl, configured_quiescent u, rfl, by simp [trace], cfg, calls, rfl, rfl, rfl, rfl, twice⟩

end Sys2Proof.Machine
end
